-- ==== Sys2Proof/Word.lean ====
section
/-! DEFINITION. The word and byte types of SHA512-CORE (00_scope.md R7, R12). -/

namespace Sys2Proof

/-- A 64-bit word: unsigned, bit 0 least significant (R7). Its `+` is addition modulo 2^64 (R10). -/
abbrev Word := BitVec 64

/-- A byte of a byte string (R12). -/
abbrev Byte := BitVec 8

end Sys2Proof
end

