-- ==== Sys2Proof/Machine/State.lean ====
section
/-! DEFINITION. The state of the block (10_state.md R30), the reset input (70_reset_and_hazards.md R220), the host's
side of the interface, and the reasons a step can stop. -/

namespace Sys2Proof.Machine

/-- The working variables a..h (R21). The host can neither read nor write them. -/
structure WorkVars where
  a : Word
  b : Word
  c : Word
  d : Word
  e : Word
  f : Word
  g : Word
  h : Word
  deriving DecidableEq, Repr

/-- Who presents an access. One host drives the block; any other is refused (60_exceptions.md R210). -/
inductive Master where
  | host
  | other
  deriving DecidableEq, Repr

/-- One access presented to the block (20_memory.md R50, R51). `disp` is the host byte address minus BASE
(`Access.atAddress` makes an access from an address), `width` its width in bits. -/
structure Access where
  master : Master
  disp : Int
  width : Nat
  we : Bool
  data : Word
  deriving DecidableEq, Repr

/-- What the outside does next, in program order. -/
inductive HostEvent where
  /-- One access, `WR` or `RD` (30_encoding.md R82). -/
  | access (x : Access)
  /-- POLL: `L: RD STATUS -> s; if s[0] = 1 goto L` (30_encoding.md R83). -/
  | poll
  /-- The reset input is asserted (70_reset_and_hazards.md R220). -/
  | assertReset
  /-- The reset input is deasserted (R220). -/
  | releaseReset
  deriving DecidableEq, Repr

/-- The state. The first group is the block's (R30); `resetIn` is the reset input (R220); the last group is the
model's own: the host's remaining events and returned words, and the interleaving (log 1, log 3). -/
structure State where
  /-- Hash state H[0..7] (R20). -/
  H : Vector Word 8
  /-- Working variables a..h (R21). -/
  wv : WorkVars
  /-- Message input buffer M[0..15] (R22). -/
  M : Vector Word 16
  /-- Schedule window Wwin[0..15] (R23). -/
  Wwin : Vector Word 16
  /-- Round counter t (R24). -/
  t : BitVec 7
  /-- BUSY (R25). -/
  busy : Bool
  /-- DONE (R26). -/
  done : Bool
  /-- ERR (R27). -/
  err : Bool
  /-- ERRCODE (R27). -/
  errcode : BitVec 4
  /-- The level of the reset input: true while asserted (R220). -/
  resetIn : Bool
  /-- The host's events not yet performed, in program order (R184). -/
  host : List HostEvent
  /-- The words returned by the host's reads, newest first (R70, R82). -/
  reads : List Word
  /-- How many host steps may still precede the engine's next step (R184). -/
  patience : Nat
  /-- How many times the interleaving was drawn. -/
  drawn : Nat
  deriving DecidableEq, Repr

/-- Why the machine stops with a fault. The block itself raises none (R201, R204). -/
inductive Fault where
  /-- Raised by `execRound0to63`, `execRound64to79` and `execFinalize` in a state in which R184 gives the engine no
  such step (`State.engineAt` is false). Safe: the spec gives no step there, and `step` never asks for one. -/
  | engineNotEnabled
  deriving DecidableEq, Repr

/-- Why the model gives an action no meaning (`raise Refuse`, R13). A refused access changes no state (R51). -/
inductive Refusal where
  /-- Raised by an arm of `exec` for an instruction that has no meaning yet. Safe. -/
  | notModelled (mnemonic : String)
  /-- Raised by `Access.fetch`: OFF[2:0] ≠ 000 (R51). Safe: the spec gives the access no meaning. -/
  | misaligned
  /-- Raised by `Access.fetch`: an access not 64 bits wide (R51). Safe. -/
  | badWidth
  /-- Raised by `Access.fetch`: an address outside BASE + 0x00 .. BASE + 0xFF (R51). Safe. -/
  | outsideWindow
  /-- Raised by `resetStep`: an access presented while reset is asserted (R220). Safe. -/
  | inReset
  /-- Raised by `Access.fetch`: a second host agent (R210). Safe. -/
  | secondHost
  deriving DecidableEq, Repr

/-- The answer of a step of this machine. -/
abbrev Result := Host.Outcome State Fault Refusal

/-- All working variables zero (R31). -/
def WorkVars.zero : WorkVars := ⟨0, 0, 0, 0, 0, 0, 0, 0⟩

/-- The state right after reset (R31, R220): the input is deasserted (log 4) and the host has performed nothing. -/
def State.reset : State where
  H := initialHash
  wv := WorkVars.zero
  M := Vector.replicate 16 0
  Wwin := Vector.replicate 16 0
  t := 0
  busy := false
  done := false
  err := false
  errcode := 0
  resetIn := false
  host := []
  reads := []
  patience := 0
  drawn := 0

end Sys2Proof.Machine
end

