-- ==== Sys2Proof/Machine/Flags.lean ====
section
/-! DEFINITION. The STATUS word (30_encoding.md R75) and the error record (60_exceptions.md R200). No arithmetic
writes a flag (00_scope.md R10). -/

namespace Sys2Proof.Machine

/-- STATUS = zext_64(ERRCODE · 2^4 + ERR · 2^2 + DONE · 2^1 + BUSY) (R75). -/
def State.statusWord (s : State) : Word :=
  BitVec.ofNat 64 (s.errcode.toNat * 2 ^ 4 + s.err.toNat * 2 ^ 2 + s.done.toNat * 2 ^ 1 + s.busy.toNat)

/-- ERRCODE of CMD_WHILE_BUSY (R76). -/
def cmdWhileBusy : BitVec 4 := 1

/-- ERRCODE of RESERVED_CMD (R76). -/
def reservedCmd : BitVec 4 := 2

/-- set_error(code): the first error since ERR was cleared keeps its code (R200). The one shared operation that
records an error; there is no trap to take (R204). -/
def State.setError (s : State) (code : BitVec 4) : State :=
  { s with errcode := if s.err then s.errcode else code, err := true }

end Sys2Proof.Machine
end

