-- ==== Sys2Proof/Machine/Primitives.lean ====
section
/-! DEFINITION. The word functions: rotr, shr, σ0, σ1 (41_message_schedule.md R120 to R123) and Σ0, Σ1, Ch, Maj
(42_compression.md R142 to R145). None writes a flag. -/

namespace Sys2Proof.Machine

/-- shr(x, n) = ⌊x / 2^n⌋, a logical shift, for 0 < n < 64 (R121); x for n = 0 and 0 for n ≥ 64 (DESIGN CHOICE,
log 18). -/
def shr (x : Word) (n : Nat) : Word := x >>> n

/-- rotr(x, n) = shr(x, n) ∨ (x · 2^(64−n) mod 2^64), for 0 < n < 64, and rotr(x, 0) = x (R120);
x for n ≥ 64 (DESIGN CHOICE, log 18). -/
def rotr (x : Word) (n : Nat) : Word := shr x n ||| x <<< (64 - n)

/-- σ0(x) (R122). -/
def smallSigma0 (x : Word) : Word := rotr x 1 ^^^ rotr x 8 ^^^ shr x 7

/-- σ1(x) (R123). -/
def smallSigma1 (x : Word) : Word := rotr x 19 ^^^ rotr x 61 ^^^ shr x 6

/-- Σ0(x) (R142). -/
def bigSigma0 (x : Word) : Word := rotr x 28 ^^^ rotr x 34 ^^^ rotr x 39

/-- Σ1(x) (R143). -/
def bigSigma1 (x : Word) : Word := rotr x 14 ^^^ rotr x 18 ^^^ rotr x 41

/-- Ch(x, y, z), choose (R144); `~~~` is the one's complement of the word (R11). -/
def ch (x y z : Word) : Word := (x &&& y) ^^^ (~~~x &&& z)

/-- Maj(x, y, z), majority (R145). -/
def maj (x y z : Word) : Word := (x &&& y) ^^^ (x &&& z) ^^^ (y &&& z)

end Sys2Proof.Machine
end

