-- ==== Sys2Proof/Machine/Schedule.lean ====
section
/-! DEFINITION. The message schedule generator: the schedule W of a block (41_message_schedule.md R124) and the step
over the 16-word window that the hardware takes (R126). -/

namespace Sys2Proof.Machine

/-- The schedule's first `16 + n` words: the block, then `n` words of the recurrence (R124). The word appended after
`16 + n` words is W[t] for t = 16 + n. -/
def schedulePart (M : Vector Word 16) : Nat → List Word
  | 0 => M.toList
  | n + 1 =>
    let W := schedulePart M n
    W ++ [smallSigma1 (W.getD (n + 14) 0) + W.getD (n + 9) 0 + smallSigma0 (W.getD (n + 1) 0) + W.getD n 0]

/-- W[t] of a block, for t = 0..79 (R124); 0 beyond (DESIGN CHOICE, log 11). -/
def scheduleWord (M : Vector Word 16) (t : Nat) : Word := (schedulePart M 64).getD t 0

/-- The window slot n mod 16 (R126). -/
def winSlot (n : Nat) : Fin 16 := ⟨n % 16, Nat.mod_lt n (by decide)⟩

/-- The word SchedWord(t) returns, for t = 0..79 (R126); the same formula beyond (DESIGN CHOICE, log 18). -/
def schedWord (Wwin : Vector Word 16) (t : Nat) : Word :=
  if t ≤ 15 then Wwin[winSlot t]
  else
    smallSigma1 Wwin[winSlot (t - 2)] + Wwin[winSlot (t - 7)] + smallSigma0 Wwin[winSlot (t - 15)] + Wwin[winSlot t]

/-- The window after SchedWord(t): for t ≥ 16, slot t mod 16 holds the new word (R126). -/
def schedWindow (Wwin : Vector Word 16) (t : Nat) : Vector Word 16 :=
  if t ≤ 15 then Wwin else Wwin.set (winSlot t).val (schedWord Wwin t) (winSlot t).isLt

end Sys2Proof.Machine
end

