-- ==== Sys2Proof/Machine/Compression.lean ====
section
/-! DEFINITION. The round function (42_compression.md R147), the copy into and the sum out of the working variables
(R146, R148), and compress(H, M), the pure function of one COMPRESS (R150). -/

namespace Sys2Proof.Machine

/-- (a, ..., h) = (H[0], ..., H[7]) (R146). -/
def WorkVars.ofHash (H : Vector Word 8) : WorkVars :=
  { a := H[0], b := H[1], c := H[2], d := H[3], e := H[4], f := H[5], g := H[6], h := H[7] }

/-- T1 = h + Σ1(e) + Ch(e, f, g) + K[t] + Wt (R147). -/
def WorkVars.t1 (v : WorkVars) (k w : Word) : Word := v.h + bigSigma1 v.e + ch v.e v.f v.g + k + w

/-- T2 = Σ0(a) + Maj(a, b, c) (R147). -/
def WorkVars.t2 (v : WorkVars) : Word := bigSigma0 v.a + maj v.a v.b v.c

/-- One round; every right-hand side reads the old values (R9, R147). -/
def WorkVars.round (v : WorkVars) (k w : Word) : WorkVars :=
  { h := v.g, g := v.f, f := v.e, e := v.d + v.t1 k w, d := v.c, c := v.b, b := v.a, a := v.t1 k w + v.t2 }

/-- (H[0] + a, ..., H[7] + h) (R148). -/
def WorkVars.addTo (v : WorkVars) (H : Vector Word 8) : Vector Word 8 :=
  #v[H[0] + v.a, H[1] + v.b, H[2] + v.c, H[3] + v.d, H[4] + v.e, H[5] + v.f, H[6] + v.g, H[7] + v.h]

/-- The working variables after rounds 0 .. n − 1 over the schedule of M (R150). -/
def roundsOf (M : Vector Word 16) (v : WorkVars) : Nat → WorkVars
  | 0 => v
  | t + 1 => (roundsOf M v t).round (roundConstant t) (scheduleWord M t)

/-- compress(H, M) (R150). -/
def compressBlock (H : Vector Word 8) (M : Vector Word 16) : Vector Word 8 :=
  (roundsOf M (WorkVars.ofHash H) 80).addTo H

end Sys2Proof.Machine
end

