-- ==== Sys2Proof/Machine/Ops.lean ====
section
/-! DEFINITION. The named operations over the block's registers that the meanings share. -/

namespace Sys2Proof.Machine

/-- A read returns a word to the host and changes nothing else (20_memory.md R55, R70). -/
def State.answer (s : State) (w : Word) : State := { s with reads := w :: s.reads }

/-- M[j] <- v (43_commands_and_registers.md R182). -/
def State.setM (s : State) (j : Fin 16) (v : Word) : State := { s with M := s.M.set j.val v j.isLt }

/-- INIT, accepted: H <- IV, DONE, ERR and ERRCODE cleared (R172). -/
def State.startMessage (s : State) : State :=
  { s with H := initialHash, done := false, err := false, errcode := 0 }

/-- COMPRESS, accepted: working variables and window loaded, t <- 0, BUSY <- 1, DONE <- 0 (R125, R146, R173). -/
def State.startCompression (s : State) : State :=
  { s with wv := WorkVars.ofHash s.H, Wwin := s.M, t := 0, busy := true, done := false }

/-- ROUND for the counter's value (R147). -/
def State.runRound (s : State) : State :=
  { s with
    wv := s.wv.round (roundConstant s.t.toNat) (schedWord s.Wwin s.t.toNat)
    Wwin := schedWindow s.Wwin s.t.toNat
    t := s.t + 1 }

/-- FINALIZE (R148). -/
def State.runFinalize (s : State) : State :=
  { s with H := s.wv.addTo s.H, t := 0, busy := false, done := true }

/-- Reset: every element of the block's state takes its reset value (R31, R220). The reset input's level and the
host's side are not the block's and stay. -/
def State.resetBlock (s : State) : State :=
  { State.reset with
    resetIn := s.resetIn, host := s.host, reads := s.reads, patience := s.patience, drawn := s.drawn }

end Sys2Proof.Machine
end

