-- ==== Sys2Proof/Machine/Commands.lean ====
section
/-! DEFINITION. The commands: writes to CTRL (43_commands_and_registers.md R170 to R175). The order of R170, the
reserved codes before the busy check, is the order of the command codes: a reserved code is an instruction of its own
and never looks at BUSY. -/

namespace Sys2Proof.Machine

/-- NOP: no state changes, in any state (R171). -/
def execNop (_ign : BitVec 60) (s : State) : Result := .next s

/-- INIT: accepted when BUSY = 0 (R172), dropped with CMD_WHILE_BUSY otherwise (R175). -/
def execInit (_ign : BitVec 60) (s : State) : Result :=
  if s.busy then .next (s.setError cmdWhileBusy) else .next s.startMessage

/-- COMPRESS: accepted when BUSY = 0 (R173), dropped with CMD_WHILE_BUSY otherwise (R175). -/
def execCompress (_ign : BitVec 60) (s : State) : Result :=
  if s.busy then .next (s.setError cmdWhileBusy) else .next s.startCompression

/-- RSVD_CMD, CMD = 3: set_error(2), whether or not BUSY = 1 (R174). -/
def execRsvdCmd3 (_ign : BitVec 60) (s : State) : Result := .next (s.setError reservedCmd)

/-- RSVD_CMD, CMD = 4..7: set_error(2) (R174). -/
def execRsvdCmd4to7 (_cmd : BitVec 4) (_ign : BitVec 60) (s : State) : Result := .next (s.setError reservedCmd)

/-- RSVD_CMD, CMD = 8..15: set_error(2) (R174). -/
def execRsvdCmd8to15 (_cmd : BitVec 4) (_ign : BitVec 60) (s : State) : Result := .next (s.setError reservedCmd)

end Sys2Proof.Machine
end

