-- ==== Sys2Proof/Config.lean ====
section
/-! DEFINITION. What a platform fixes (BASE) and the one free value of the model (the interleaving). -/

namespace Sys2Proof.Config

/-- The page number of the register window: BASE / 256. A parameter the spec leaves open
(20_memory.md R50, 92_eei_decisions.md 'Parameters left open'); it has no body, so no proof sees its value (log 2). -/
opaque basePage : Nat

/-- BASE, the host byte address of offset 0x00: a multiple of 256 (R50). -/
def base : Nat := 256 * basePage

/-- FREE VALUE. `hostTurns n` is how many host steps may precede the engine step for which the `n`-th draw is made
(43_commands_and_registers.md R184: any interleaving, with weak fairness; 93_implementation_defined.md section 2).
It has no body: a claim holds for every interleaving it can describe (log 1). -/
opaque hostTurns : Nat → Nat

end Sys2Proof.Config
end

