-- ==== Sys2Proof/Syntax.lean ====
section
/-! DEFINITION. The instructions of SHA512-CORE: one constructor per row of opcode_table.json. A host row is a
transaction the host may issue (30_encoding.md R81), an engine row a step of the engine (R80). -/

namespace Sys2Proof

/-- One constructor per row. `ign` is DATA[63:4] of a CTRL write, which R72 says is ignored; `data` is DATA, ignored
in a read (R70) and discarded by an ignored write. They are kept so that an instruction stands for one encoding. -/
inductive Instr where
  /-- NOP: CTRL write with CMD = 0 (R171). -/
  | nop (ign : BitVec 60)
  /-- INIT: CTRL write with CMD = 1 (R172, R175). -/
  | init (ign : BitVec 60)
  /-- COMPRESS: CTRL write with CMD = 2 (R173, R175). -/
  | compress (ign : BitVec 60)
  /-- RSVD_CMD, first row: CMD = 3 (R174). -/
  | rsvdCmd3 (ign : BitVec 60)
  /-- RSVD_CMD, second row: CMD = 4..7 (R174). -/
  | rsvdCmd4to7 (cmd : BitVec 4) (ign : BitVec 60)
  /-- RSVD_CMD, third row: CMD = 8..15 (R174). -/
  | rsvdCmd8to15 (cmd : BitVec 4) (ign : BitVec 60)
  /-- RD_CTRL (R176). -/
  | rdCtrl (data : Word)
  /-- RD_STATUS (R177). -/
  | rdStatus (data : Word)
  /-- WR_STATUS (R178). -/
  | wrStatus (data : Word)
  /-- RD_H: read of offset 0x40 + 8 i (R179). -/
  | rdH (i : Fin 8) (data : Word)
  /-- WR_H: write of offset 0x40 + 8 i (R180). -/
  | wrH (i : Fin 8) (data : Word)
  /-- RD_M: read of offset 0x80 + 8 j (R181). -/
  | rdM (j : Fin 16) (data : Word)
  /-- WR_M: write of offset 0x80 + 8 j (R182). -/
  | wrM (j : Fin 16) (data : Word)
  /-- RD_RSVD, first row: offsets 0x10 and 0x18, slots 2 and 3 (R183). -/
  | rdRsvd10to18 (slot : BitVec 5) (data : Word)
  /-- RD_RSVD, second row: offsets 0x20 to 0x38, slots 4 to 7 (R183). -/
  | rdRsvd20to38 (slot : BitVec 5) (data : Word)
  /-- WR_RSVD, first row: offsets 0x10 and 0x18, slots 2 and 3 (R183). -/
  | wrRsvd10to18 (slot : BitVec 5) (data : Word)
  /-- WR_RSVD, second row: offsets 0x20 to 0x38, slots 4 to 7 (R183). -/
  | wrRsvd20to38 (slot : BitVec 5) (data : Word)
  /-- ROUND, first row: t = 0..63 (R147). -/
  | round0to63 (t : BitVec 7)
  /-- ROUND, second row: t = 64..79 (R147). -/
  | round64to79 (t : BitVec 7)
  /-- FINALIZE: t = 80 (R148). -/
  | finalize
  deriving DecidableEq, Repr

/-- The row's mnemonic, letter for letter as opcode_table.json spells it. -/
def Instr.mnemonic : Instr → String
  | .nop _ => "NOP"
  | .init _ => "INIT"
  | .compress _ => "COMPRESS"
  | .rsvdCmd3 _ => "RSVD_CMD"
  | .rsvdCmd4to7 _ _ => "RSVD_CMD"
  | .rsvdCmd8to15 _ _ => "RSVD_CMD"
  | .rdCtrl _ => "RD_CTRL"
  | .rdStatus _ => "RD_STATUS"
  | .wrStatus _ => "WR_STATUS"
  | .rdH _ _ => "RD_H"
  | .wrH _ _ => "WR_H"
  | .rdM _ _ => "RD_M"
  | .wrM _ _ => "WR_M"
  | .rdRsvd10to18 _ _ => "RD_RSVD"
  | .rdRsvd20to38 _ _ => "RD_RSVD"
  | .wrRsvd10to18 _ _ => "WR_RSVD"
  | .wrRsvd20to38 _ _ => "WR_RSVD"
  | .round0to63 _ => "ROUND"
  | .round64to79 _ => "ROUND"
  | .finalize => "FINALIZE"

/-- Whether an instruction is a host transaction (format HOST) and not an engine step (format ENGINE). -/
def Instr.isHost : Instr → Bool
  | .nop _ => true
  | .init _ => true
  | .compress _ => true
  | .rsvdCmd3 _ => true
  | .rsvdCmd4to7 _ _ => true
  | .rsvdCmd8to15 _ _ => true
  | .rdCtrl _ => true
  | .rdStatus _ => true
  | .wrStatus _ => true
  | .rdH _ _ => true
  | .wrH _ _ => true
  | .rdM _ _ => true
  | .wrM _ _ => true
  | .rdRsvd10to18 _ _ => true
  | .rdRsvd20to38 _ _ => true
  | .wrRsvd10to18 _ _ => true
  | .wrRsvd20to38 _ _ => true
  | .round0to63 _ => false
  | .round64to79 _ => false
  | .finalize => false

end Sys2Proof
end

