-- ==== Sys2Proof/WellFormed.lean ====
section
/-! DEFINITION. Which terms of Instr are instructions: the operand ranges of the rows of 30_encoding.md R80 and R81. -/

namespace Sys2Proof

/-- An instruction is well formed when its operands lie in the range its row gives them. -/
def Instr.wf : Instr → Bool
  | .nop _ => true
  | .init _ => true
  | .compress _ => true
  | .rsvdCmd3 _ => true
  | .rsvdCmd4to7 cmd _ => 4 ≤ cmd.toNat && cmd.toNat ≤ 7
  | .rsvdCmd8to15 cmd _ => 8 ≤ cmd.toNat
  | .rdCtrl _ => true
  | .rdStatus _ => true
  | .wrStatus _ => true
  | .rdH _ _ => true
  | .wrH _ _ => true
  | .rdM _ _ => true
  | .wrM _ _ => true
  | .rdRsvd10to18 slot _ => 2 ≤ slot.toNat && slot.toNat ≤ 3
  | .rdRsvd20to38 slot _ => 4 ≤ slot.toNat && slot.toNat ≤ 7
  | .wrRsvd10to18 slot _ => 2 ≤ slot.toNat && slot.toNat ≤ 3
  | .wrRsvd20to38 slot _ => 4 ≤ slot.toNat && slot.toNat ≤ 7
  | .round0to63 t => t.toNat ≤ 63
  | .round64to79 t => 64 ≤ t.toNat && t.toNat ≤ 79
  | .finalize => true

end Sys2Proof
end

