-- ==== Sys2Proof/Decode.lean ====
section
/-! DEFINITION. Decoding a host transaction (30_encoding.md R70, R71, R73, R77) and an engine word (R80), the encoder
written from the same tables, and the mask and match tables of R80 and R81. -/

namespace Sys2Proof

/-- What may be handed to the decoder: a 73-bit host transaction T (R70) or an 8-bit engine word E (R80). -/
inductive Encoded where
  | host (T : BitVec 73)
  | engine (E : BitVec 8)
  deriving DecidableEq, Repr

/-- Why a word spells no instruction. -/
inductive DecodeError where
  /-- OFF[2:0] ≠ 000 in a host transaction (R71, R79). -/
  | misaligned
  /-- An engine word that matches no engine row (R80): BUSY = 0, or t ≥ 81. -/
  | noEngineStep
  deriving DecidableEq, Repr

/-! ### The fields of T and E -/

/-- T = WE · 2^72 + OFF · 2^64 + DATA (R70). -/
def hostWord (we : Bool) (off : BitVec 8) (data : Word) : BitVec 73 := BitVec.ofBool we ++ off ++ data

/-- WE, bit 72 (R70). -/
def hostWE (T : BitVec 73) : Bool := T.getLsbD 72

/-- OFF, bits 71:64 (R70). -/
def hostOFF (T : BitVec 73) : BitVec 8 := T.extractLsb' 64 8

/-- DATA, bits 63:0 (R70). -/
def hostDATA (T : BitVec 73) : Word := T.extractLsb' 0 64

/-- OFF[2:0] = 000 (R71). -/
def offAligned (off : BitVec 8) : Bool := off.extractLsb' 0 3 == 0#3

/-- The slot number OFF[7:3] (R71). -/
def offSlot (off : BitVec 8) : BitVec 5 := off.extractLsb' 3 5

/-- The offset of a slot: 8 · slot (R71). -/
def slotOff (slot : BitVec 5) : BitVec 8 := slot ++ 0#3

/-- H index i = OFF[5:3], the low three bits of the slot (R77). -/
def slotH (slot : BitVec 5) : Fin 8 := (slot.extractLsb' 0 3).toFin

/-- M index j = OFF[6:3], the low four bits of the slot (R77). -/
def slotM (slot : BitVec 5) : Fin 16 := (slot.extractLsb' 0 4).toFin

/-- CMD = DATA[3:0] of a CTRL write (R72). -/
def dataCMD (data : Word) : BitVec 4 := data.extractLsb' 0 4

/-- DATA[63:4] of a CTRL write, ignored (R72). -/
def dataIgnored (data : Word) : BitVec 60 := data.extractLsb' 4 60

/-- The data word of a CTRL write with a given CMD (R72). -/
def commandData (ign : BitVec 60) (cmd : BitVec 4) : Word := ign ++ cmd

/-- E = BUSY · 2^7 + t (R80). -/
def engineWord (busy : Bool) (t : BitVec 7) : BitVec 8 := BitVec.ofBool busy ++ t

/-- BUSY, bit 7 of E (R80). -/
def engineBUSY (E : BitVec 8) : Bool := E.getLsbD 7

/-- t, bits 6:0 of E (R80). -/
def engineT (E : BitVec 8) : BitVec 7 := E.extractLsb' 0 7

/-! ### The decoder -/

/-- Command codes (R73). -/
def decodeCommand (data : Word) : Instr :=
  let cmd := dataCMD data
  let ign := dataIgnored data
  if cmd.toNat = 0 then .nop ign
  else if cmd.toNat = 1 then .init ign
  else if cmd.toNat = 2 then .compress ign
  else if cmd.toNat = 3 then .rsvdCmd3 ign
  else if cmd.toNat < 8 then .rsvdCmd4to7 cmd ign
  else .rsvdCmd8to15 cmd ign

/-- The register map, for reads (R71). -/
def decodeRead (slot : BitVec 5) (data : Word) : Instr :=
  if slot.toNat = 0 then .rdCtrl data
  else if slot.toNat = 1 then .rdStatus data
  else if slot.toNat < 4 then .rdRsvd10to18 slot data
  else if slot.toNat < 8 then .rdRsvd20to38 slot data
  else if slot.toNat < 16 then .rdH (slotH slot) data
  else .rdM (slotM slot) data

/-- The register map, for writes (R71). -/
def decodeWrite (slot : BitVec 5) (data : Word) : Instr :=
  if slot.toNat = 0 then decodeCommand data
  else if slot.toNat = 1 then .wrStatus data
  else if slot.toNat < 4 then .wrRsvd10to18 slot data
  else if slot.toNat < 8 then .wrRsvd20to38 slot data
  else if slot.toNat < 16 then .wrH (slotH slot) data
  else .wrM (slotM slot) data

/-- A host transaction (R70, R71, R79): refused when OFF[2:0] ≠ 000, one instruction otherwise. -/
def decodeHost (T : BitVec 73) : Except DecodeError Instr :=
  if offAligned (hostOFF T) then
    if hostWE T then .ok (decodeWrite (offSlot (hostOFF T)) (hostDATA T))
    else .ok (decodeRead (offSlot (hostOFF T)) (hostDATA T))
  else .error .misaligned

/-- An engine word (R80). -/
def decodeEngine (E : BitVec 8) : Except DecodeError Instr :=
  let t := engineT E
  if engineBUSY E then
    if t.toNat ≤ 63 then .ok (.round0to63 t)
    else if t.toNat ≤ 79 then .ok (.round64to79 t)
    else if t.toNat = 80 then .ok .finalize
    else .error .noEngineStep
  else .error .noEngineStep

/-- The decoder: total, rejecting by name. -/
def decode : Encoded → Except DecodeError Instr
  | .host T => decodeHost T
  | .engine E => decodeEngine E

/-! ### The encoder -/

/-- The slot of H[i]: 8 + i (R71). -/
def hSlot (i : Fin 8) : BitVec 5 := BitVec.ofNat 5 (8 + i.val)

/-- The slot of M[j]: 16 + j (R71). -/
def mSlot (j : Fin 16) : BitVec 5 := BitVec.ofNat 5 (16 + j.val)

/-- The encoding of an instruction (R70, R71, R73, R80). -/
def encode : Instr → Encoded
  | .nop ign => .host (hostWord true (slotOff 0) (commandData ign 0))
  | .init ign => .host (hostWord true (slotOff 0) (commandData ign 1))
  | .compress ign => .host (hostWord true (slotOff 0) (commandData ign 2))
  | .rsvdCmd3 ign => .host (hostWord true (slotOff 0) (commandData ign 3))
  | .rsvdCmd4to7 cmd ign => .host (hostWord true (slotOff 0) (commandData ign cmd))
  | .rsvdCmd8to15 cmd ign => .host (hostWord true (slotOff 0) (commandData ign cmd))
  | .rdCtrl data => .host (hostWord false (slotOff 0) data)
  | .rdStatus data => .host (hostWord false (slotOff 1) data)
  | .wrStatus data => .host (hostWord true (slotOff 1) data)
  | .rdH i data => .host (hostWord false (slotOff (hSlot i)) data)
  | .wrH i data => .host (hostWord true (slotOff (hSlot i)) data)
  | .rdM j data => .host (hostWord false (slotOff (mSlot j)) data)
  | .wrM j data => .host (hostWord true (slotOff (mSlot j)) data)
  | .rdRsvd10to18 slot data => .host (hostWord false (slotOff slot) data)
  | .rdRsvd20to38 slot data => .host (hostWord false (slotOff slot) data)
  | .wrRsvd10to18 slot data => .host (hostWord true (slotOff slot) data)
  | .wrRsvd20to38 slot data => .host (hostWord true (slotOff slot) data)
  | .round0to63 t => .engine (engineWord true t)
  | .round64to79 t => .engine (engineWord true t)
  | .finalize => .engine (engineWord true 80)

/-! ### The opcode table -/

/-- A row of opcode_table.json: a word belongs to it when `word ∧ mask = pattern` (R79, R80). -/
structure Row (w : Nat) where
  mnemonic : String
  pattern : BitVec w
  mask : BitVec w
  deriving DecidableEq, Repr

/-- (word ∧ mask) = match (R79). -/
def Row.covers {w : Nat} (r : Row w) (word : BitVec w) : Bool := word &&& r.mask == r.pattern

/-- The rows of format HOST with WE = 1 (R81). -/
def hostWriteRows : List (Row 73) :=
  [⟨"NOP", 0x1000000000000000000, 0x1ff000000000000000f⟩,
   ⟨"INIT", 0x1000000000000000001, 0x1ff000000000000000f⟩,
   ⟨"COMPRESS", 0x1000000000000000002, 0x1ff000000000000000f⟩,
   ⟨"RSVD_CMD", 0x1000000000000000003, 0x1ff000000000000000f⟩,
   ⟨"RSVD_CMD", 0x1000000000000000004, 0x1ff000000000000000c⟩,
   ⟨"RSVD_CMD", 0x1000000000000000008, 0x1ff0000000000000008⟩,
   ⟨"WR_STATUS", 0x1080000000000000000, 0x1ff0000000000000000⟩,
   ⟨"WR_H", 0x1400000000000000000, 0x1c70000000000000000⟩,
   ⟨"WR_M", 0x1800000000000000000, 0x1870000000000000000⟩,
   ⟨"WR_RSVD", 0x1100000000000000000, 0x1f70000000000000000⟩,
   ⟨"WR_RSVD", 0x1200000000000000000, 0x1e70000000000000000⟩]

/-- The rows of format HOST with WE = 0 (R81). -/
def hostReadRows : List (Row 73) :=
  [⟨"RD_CTRL", 0x0000000000000000000, 0x1ff0000000000000000⟩,
   ⟨"RD_STATUS", 0x0080000000000000000, 0x1ff0000000000000000⟩,
   ⟨"RD_H", 0x0400000000000000000, 0x1c70000000000000000⟩,
   ⟨"RD_M", 0x0800000000000000000, 0x1870000000000000000⟩,
   ⟨"RD_RSVD", 0x0100000000000000000, 0x1f70000000000000000⟩,
   ⟨"RD_RSVD", 0x0200000000000000000, 0x1e70000000000000000⟩]

/-- The seventeen rows of format HOST (R81). -/
def hostRows : List (Row 73) := hostWriteRows ++ hostReadRows

/-- The three rows of format ENGINE (R80). -/
def engineRows : List (Row 8) :=
  [⟨"ROUND", 0x80, 0xc0⟩, ⟨"ROUND", 0xc0, 0xf0⟩, ⟨"FINALIZE", 0xd0, 0xff⟩]

/-- The mnemonics of the rows that cover a word. -/
def rowsCovering : Encoded → List String
  | .host T => (hostRows.filter (·.covers T)).map (·.mnemonic)
  | .engine E => (engineRows.filter (·.covers E)).map (·.mnemonic)

/-! ### The host's entry point -/

/-- The encoding whose bits are `w`, numbered as the opcode table numbers them: an engine word where the row has at
most one byte, a host transaction T otherwise (R70, R80). None where `w` has a bit the format lacks. -/
def encodedOfTable (nbits w : Nat) : Option Encoded :=
  if nbits ≤ 8 then
    if w < 2 ^ 8 then some (.engine (BitVec.ofNat 8 w)) else none
  else
    if w < 2 ^ 73 then some (.host (BitVec.ofNat 73 w)) else none

/-- The instruction the decoder reads from an instruction whose bits are `w` (none where it refuses). -/
def decodeTableWord (nbits w : Nat) : Option Instr :=
  match encodedOfTable nbits w with
  | some e =>
    match decode e with
    | .ok i => some i
    | .error _ => none
  | none => none

end Sys2Proof
end

