-- ==== Sys2Proof/Machine/Operands.lean ====
section
/-! DEFINITION. From an access to a transaction (20_memory.md R50, R51) and the engine's state word
(30_encoding.md R80): what stands in for operand forms on this hardware. -/

namespace Sys2Proof.Machine

/-- The access a host makes at a host byte address: its displacement is the address minus BASE (R50). -/
def Access.atAddress (master : Master) (addr width : Nat) (we : Bool) (data : Word) : Access :=
  { master := master, disp := (addr : Int) - (Config.base : Int), width := width, we := we, data := data }

/-- The address lies in BASE + 0x00 .. BASE + 0xFF (R50). -/
def Access.inWindow (x : Access) : Bool := 0 ≤ x.disp && x.disp ≤ 0xff

/-- OFF of an access in the window (R70). -/
def Access.off (x : Access) : BitVec 8 := BitVec.ofNat 8 x.disp.toNat

/-- The transaction T of an access: WE, OFF, DATA (R70). -/
def Access.transaction (x : Access) : BitVec 73 := hostWord x.we x.off x.data

/-- The instruction an access spells, or why it is refused (R51, R210). Where several grounds hold at once the order
is the model's (log 6). -/
def Access.fetch (x : Access) : Except Refusal Instr :=
  if x.master = .other then .error .secondHost
  else if x.inWindow = false then .error .outsideWindow
  else if x.width ≠ 64 then .error .badWidth
  else
    match decode (.host x.transaction) with
    | .ok i => .ok i
    | .error _ => .error .misaligned

/-- A 64-bit access of the host at an offset of the window. -/
def Access.atOffset (we : Bool) (off : BitVec 8) (data : Word) : Access :=
  { master := .host, disp := (off.toNat : Int), width := 64, we := we, data := data }

/-- The engine state {BUSY, t} as the word E (R80). -/
def State.engineE (s : State) : BitVec 8 := engineWord s.busy s.t

/-- The step the engine can take, if any: the one its state word selects (R80, R184); none while reset is asserted
(R220). -/
def State.engineFetch (s : State) : Option Instr :=
  if s.resetIn then none
  else
    match decode (.engine s.engineE) with
    | .ok i => some i
    | .error _ => none

/-- The engine stands at its step `t`: BUSY = 1, the counter is `t`, and reset is not asserted (R147, R148, R220). -/
def State.engineAt (s : State) (t : BitVec 7) : Bool := !s.resetIn && s.busy && s.t == t

end Sys2Proof.Machine
end

