-- ==== Sys2Proof/Machine/Engine.lean ====
section
/-! DEFINITION. The engine's steps (42_compression.md R147, R148). Each is enabled only where
43_commands_and_registers.md R184 and 30_encoding.md R80 say; elsewhere the engine has no such step and the meaning
faults by name (log 7). -/

namespace Sys2Proof.Machine

/-- ROUND, t = 0..63 (R147). -/
def execRound0to63 (t : BitVec 7) (s : State) : Result :=
  if s.engineAt t && t.toNat ≤ 63 then .next s.runRound else .fault .engineNotEnabled

/-- ROUND, t = 64..79 (R147). -/
def execRound64to79 (t : BitVec 7) (s : State) : Result :=
  if s.engineAt t && (64 ≤ t.toNat && t.toNat ≤ 79) then .next s.runRound else .fault .engineNotEnabled

/-- FINALIZE, t = 80 (R148). -/
def execFinalize (s : State) : Result :=
  if s.engineAt 80 then .next s.runFinalize else .fault .engineNotEnabled

end Sys2Proof.Machine
end

