-- ==== Sys2Proof/Machine/Registers.lean ====
section
/-! DEFINITION. Register reads and writes of the host (43_commands_and_registers.md R176 to R183). No read has a side
effect on the block (20_memory.md R55). -/

namespace Sys2Proof.Machine

/-- RD_CTRL: returns 0; CTRL stores nothing (R176). -/
def execRdCtrl (_data : Word) (s : State) : Result := .next (s.answer 0)

/-- RD_STATUS: returns the STATUS word; the read clears nothing (R177). -/
def execRdStatus (_data : Word) (s : State) : Result := .next (s.answer s.statusWord)

/-- WR_STATUS: ignored (R178). -/
def execWrStatus (_data : Word) (s : State) : Result := .next s

/-- RD_H: returns H[i], also while BUSY = 1 (R179). -/
def execRdH (i : Fin 8) (_data : Word) (s : State) : Result := .next (s.answer s.H[i])

/-- WR_H: ignored; the data is discarded (R180). -/
def execWrH (_i : Fin 8) (_data : Word) (s : State) : Result := .next s

/-- RD_M: returns M[j] (R181). -/
def execRdM (j : Fin 16) (_data : Word) (s : State) : Result := .next (s.answer s.M[j])

/-- WR_M: M[j] <- v, at any time (R182). -/
def execWrM (j : Fin 16) (data : Word) (s : State) : Result := .next (s.setM j data)

/-- RD_RSVD at 0x10 and 0x18: returns 0 (R183). -/
def execRdRsvd10to18 (_slot : BitVec 5) (_data : Word) (s : State) : Result := .next (s.answer 0)

/-- RD_RSVD at 0x20 to 0x38: returns 0 (R183). -/
def execRdRsvd20to38 (_slot : BitVec 5) (_data : Word) (s : State) : Result := .next (s.answer 0)

/-- WR_RSVD at 0x10 and 0x18: changes nothing, sets no error (R183). -/
def execWrRsvd10to18 (_slot : BitVec 5) (_data : Word) (s : State) : Result := .next s

/-- WR_RSVD at 0x20 to 0x38: changes nothing, sets no error (R183). -/
def execWrRsvd20to38 (_slot : BitVec 5) (_data : Word) (s : State) : Result := .next s

end Sys2Proof.Machine
end

