-- ==== Sys2Proof/Machine/Dispatch.lean ====
section
/-! DEFINITION. One arm per row of opcode_table.json. -/

namespace Sys2Proof.Machine

def exec (i : Instr) (s : State) : Host.Outcome State Fault Refusal :=
  match i with
  -- commands (R171 to R175)
  | .nop ign => Sys2Proof.Machine.execNop ign s
  | .init ign => Sys2Proof.Machine.execInit ign s
  | .compress ign => Sys2Proof.Machine.execCompress ign s
  | .rsvdCmd3 ign => Sys2Proof.Machine.execRsvdCmd3 ign s
  | .rsvdCmd4to7 cmd ign => Sys2Proof.Machine.execRsvdCmd4to7 cmd ign s
  | .rsvdCmd8to15 cmd ign => Sys2Proof.Machine.execRsvdCmd8to15 cmd ign s
  -- register reads and writes (R176 to R183)
  | .rdCtrl data => Sys2Proof.Machine.execRdCtrl data s
  | .rdStatus data => Sys2Proof.Machine.execRdStatus data s
  | .wrStatus data => Sys2Proof.Machine.execWrStatus data s
  | .rdH k data => Sys2Proof.Machine.execRdH k data s
  | .wrH k data => Sys2Proof.Machine.execWrH k data s
  | .rdM j data => Sys2Proof.Machine.execRdM j data s
  | .wrM j data => Sys2Proof.Machine.execWrM j data s
  | .rdRsvd10to18 slot data => Sys2Proof.Machine.execRdRsvd10to18 slot data s
  | .rdRsvd20to38 slot data => Sys2Proof.Machine.execRdRsvd20to38 slot data s
  | .wrRsvd10to18 slot data => Sys2Proof.Machine.execWrRsvd10to18 slot data s
  | .wrRsvd20to38 slot data => Sys2Proof.Machine.execWrRsvd20to38 slot data s
  -- engine steps (R147, R148)
  | .round0to63 t => Sys2Proof.Machine.execRound0to63 t s
  | .round64to79 t => Sys2Proof.Machine.execRound64to79 t s
  | .finalize => Sys2Proof.Machine.execFinalize s

end Sys2Proof.Machine
end

