-- ==== Sys2Proof/Machine/Agents.lean ====
section
/-! DEFINITION. The two agents and the reset input (43_commands_and_registers.md R184, 70_reset_and_hazards.md R220):
what one step of a run does. The field `patience` says who moves when both can: the engine once it is 0 (log 1). -/

namespace Sys2Proof.Machine

/-- Goes on after a next state and keeps a fault or a refusal. -/
def onNext (o : Result) (f : State → State) : Result :=
  match o with
  | .next s => .next (f s)
  | .fault r => .fault r
  | .refused r => .refused r

/-- Draws the number of host steps that may precede the engine's next step: a free value (R184, log 1). -/
def State.draw (s : State) : State :=
  { s with patience := Config.hostTurns s.drawn, drawn := s.drawn + 1 }

/-- After a host step from `before` whose own effect is `after`: the host goes on with `rest`. Where the engine had a
step waiting, the host has used one of the turns it may take before it; where the step gave the engine work, the
number of those turns is drawn (log 1). -/
def State.passTurn (before after : State) (rest : List HostEvent) : State :=
  if before.engineFetch.isSome then { after with host := rest, patience := before.patience - 1 }
  else if after.engineFetch.isSome then ({ after with host := rest } : State).draw
  else { after with host := rest }

/-- POLL's one transaction, RD STATUS (30_encoding.md R83). -/
def pollAccess : Access := Access.atOffset false 0x08 0

/-- POLL goes on while the word read has bit 0 set (R83). -/
def State.pollAgain (s : State) : Bool := (s.reads.headD 0).getLsbD 0

/-- The events left after a POLL's read (R83). -/
def pollRest (rest : List HostEvent) (after : State) : List HostEvent :=
  if after.pollAgain then .poll :: rest else rest

/-- The reset input goes high: every element takes its reset value, at once and whatever runs (R203, R220). -/
def State.enterReset (s : State) (rest : List HostEvent) : State :=
  { s.resetBlock with resetIn := true, host := rest }

/-- The reset input goes low: the block is idle at its reset values (R220). -/
def State.leaveReset (s : State) (rest : List HostEvent) : State :=
  { s.resetBlock with resetIn := false, host := rest }

/-- One step of the host, reset not asserted: one transaction, performed whole (20_memory.md R54). -/
def hostStep (ev : HostEvent) (rest : List HostEvent) (s : State) : Result :=
  match ev with
  | .access x =>
    match x.fetch with
    | .ok i => onNext (exec i s) (fun s1 => s.passTurn s1 rest)
    | .error r => .refused r
  | .poll =>
    match pollAccess.fetch with
    | .ok i => onNext (exec i s) (fun s1 => s.passTurn s1 (pollRest rest s1))
    | .error r => .refused r
  | .assertReset => .next (s.enterReset rest)
  | .releaseReset => .next (s.passTurn s rest)

/-- One step of the engine (R184). -/
def engineStep (i : Instr) (s : State) : Result := onNext (exec i s) State.draw

/-- One step while reset is asserted: the registers are held at their reset values, the engine takes no step and a
host access is refused (R220). -/
def resetStep (s : State) : Result :=
  match s.host with
  | [] => .next s.resetBlock
  | .assertReset :: rest => .next (s.enterReset rest)
  | .releaseReset :: rest => .next (s.leaveReset rest)
  | .access _ :: _ => .refused .inReset
  | .poll :: _ => .refused .inReset

/-- One step with reset not asserted (R184): the engine where it has a step and the host's turns are used up or the
host has nothing left, else the host. Where neither can move nothing changes (60_exceptions.md R212). -/
def runningStep (s : State) : Result :=
  match s.engineFetch, s.host with
  | some i, [] => engineStep i s
  | some i, ev :: rest => if s.patience = 0 then engineStep i s else hostStep ev rest s
  | none, ev :: rest => hostStep ev rest s
  | none, [] => .next s

/-- One step of a run. -/
def advance (s : State) : Result := if s.resetIn then resetStep s else runningStep s

end Sys2Proof.Machine
end

