-- ==== Sys2Proof/Machine/Step.lean ====
section
/-! DEFINITION. The step, and the placing of one instruction so that the next step runs it. -/

namespace Sys2Proof.Machine

/-- One step of the machine: one host transaction, one engine step, one reset event, or nothing to do (R184, R220). -/
def step (s : State) : Host.Outcome State Fault Refusal := advance s

/-- `s` with one instruction placed where the next step takes it (log 9). A host transaction becomes the host's next
event, with a turn left to the host; an engine word becomes {BUSY, t}, with the host's turns used up. Reset is not
asserted. A word that is no word of its format places nothing. -/
def State.withFetchWord (s : State) (nbits w : Nat) : State :=
  match encodedOfTable nbits w with
  | some (.host T) =>
    { s with
      resetIn := false
      host := .access (Access.atOffset (hostWE T) (hostOFF T) (hostDATA T)) :: s.host
      patience := max 1 s.patience }
  | some (.engine E) => { s with resetIn := false, busy := engineBUSY E, t := engineT E, patience := 0 }
  | none => s

end Sys2Proof.Machine
end

