-- ==== Sys2Proof/Machine/HostFunctions.lean ====
section
/-! DEFINITION. The host's reference functions (40_padding_and_parsing.md): padding, block parsing, digest output and
the whole hash. They run on the host, not in the block (00_scope.md R3). A bit string is a list of Bool, first bit
first; a byte string is a list of bytes. -/

namespace Sys2Proof.Machine

/-- Why the host's padder refuses (R103). The representation is the model's (93_implementation_defined.md section 1). -/
inductive PadError where
  /-- length_bits < 0 or length_bits ≥ 2^128 (R103). -/
  | invalidInputLength
  /-- length_bits differs from the true bit length: a contract violation a model refuses too (R103). -/
  | lengthMismatch
  deriving DecidableEq, Repr

/-! ### Big-endian conversion (R12) -/

/-- x as `w` bits, most significant first; for x ≥ 2^w, x mod 2^w (DESIGN CHOICE, log 17). -/
def natBits (w x : Nat) : List Bool := (List.range w).map fun k => x.testBit (w - 1 - k)

/-- The bits of a byte string, each byte's most significant bit first. -/
def bitsOfBytes (B : List Byte) : List Bool := B.flatMap fun b => natBits 8 b.toNat

/-- A byte from its bits, most significant first. -/
def byteOfBits (bits : List Bool) : Byte := bits.foldl (fun acc b => acc * 2 + BitVec.ofNat 8 b.toNat) 0

/-- A bit string of whole bytes as a byte string. Bits after the last whole byte are left out (DESIGN CHOICE,
log 17). -/
def bytesOfBits (P : List Bool) : List Byte :=
  (List.range (P.length / 8)).map fun k => byteOfBits ((P.drop (8 * k)).take 8)

/-- x as `n` bytes, most significant first; for x ≥ 2^(8n), x mod 2^(8n) (DESIGN CHOICE, log 17). -/
def natBytes (n x : Nat) : List Byte := (List.range n).map fun k => BitVec.ofNat 8 (x / 2 ^ (8 * (n - 1 - k)))

/-- BE128(x), which R12 defines for x < 2^128; beyond, BE128(x mod 2^128) (DESIGN CHOICE, log 17). -/
def be128 (x : Nat) : List Byte := natBytes 16 x

/-- BE64(b0, ..., b7) = b0 · 2^56 + ... + b7 (R12). On a list of another length, the big-endian value of its bytes
modulo 2^64 (DESIGN CHOICE, log 17). -/
def be64 (bytes : List Byte) : Word := bytes.foldl (fun acc b => acc * 256 + b.setWidth 64) 0

/-- bytes64(w): the 8 bytes of w, most significant first (R12). -/
def bytes64 (w : Word) : List Byte := natBytes 8 w.toNat

/-! ### Padder (R100 to R104) -/

/-- k = (896 − (l + 1)) mod 1024 (R101). -/
def padZeroBits (l : Nat) : Nat := (((896 : Int) - ((l : Int) + 1)) % 1024).toNat

/-- z = (111 − n) mod 128 (R102). -/
def padZeroBytes (n : Nat) : Nat := (((111 : Int) - (n : Int)) % 128).toNat

/-- pad(message, length_bits): X ‖ 1 ‖ 0^k ‖ L (R100, R101, R103). -/
def pad (X : List Bool) (lengthBits : Int) : Except PadError (List Bool) :=
  if lengthBits < 0 ∨ 2 ^ 128 ≤ lengthBits then .error .invalidInputLength
  else if lengthBits ≠ (X.length : Int) then .error .lengthMismatch
  else .ok (X ++ [true] ++ List.replicate (padZeroBits X.length) false ++ natBits 128 X.length)

/-- The byte-aligned form: B ‖ 0x80 ‖ 0x00^z ‖ BE128(8n) (R102). R100 gives it no meaning for 8n ≥ 2^128, which `pad`
refuses; this function is total, and its length field is then 8n mod 2^128 (DESIGN CHOICE, log 17). -/
def padBytes (B : List Byte) : List Byte :=
  B ++ [0x80] ++ List.replicate (padZeroBytes B.length) 0 ++ be128 (8 * B.length)

/-! ### Block parser (R105) -/

/-- M_b[j] = BE64 of the 8 bytes at 128 b + 8 j (R105); of the bytes there are, where fewer follow (DESIGN CHOICE,
log 17). -/
def blockWord (P : List Byte) (b j : Nat) : Word := be64 ((P.drop (128 * b + 8 * j)).take 8)

/-- Block b as its sixteen words (R105). -/
def blockWords (P : List Byte) (b : Nat) : Vector Word 16 := Vector.ofFn fun j => blockWord P b j.val

/-- All blocks of a padded buffer, in increasing offset order (R105). Of a buffer that is no multiple of 128 bytes, the
whole blocks only (DESIGN CHOICE, log 17). -/
def parseBlocks (P : List Byte) : List (Vector Word 16) := (List.range (P.length / 128)).map (blockWords P)

/-! ### Digest and whole function (R106, R107) -/

/-- D = bytes64(H[0]) ‖ ... ‖ bytes64(H[7]) (R106). -/
def digestBytes (H : Vector Word 8) : List Byte := H.toList.flatMap bytes64

/-- The hash state after a padded buffer, blocks in order from IV (R107). -/
def hashBlocks (blocks : List (Vector Word 16)) : Vector Word 8 := blocks.foldl compressBlock initialHash

/-- SHA512(X) (R107). -/
def sha512 (X : List Bool) (lengthBits : Int) : Except PadError (List Byte) :=
  match pad X lengthBits with
  | .ok P => .ok (digestBytes (hashBlocks (parseBlocks (bytesOfBits P))))
  | .error e => .error e

end Sys2Proof.Machine
end

