-- ==== Sys2Proof/Machine/Program.lean ====
section
/-! DEFINITION. The host's notation: the pseudo-instructions of 30_encoding.md R82, R83 and the hashing procedure of
70_reset_and_hazards.md R222, as lists of host events. -/

namespace Sys2Proof.Machine

/-- `WR` to an offset (R82). -/
def wr (off : BitVec 8) (v : Word) : HostEvent := .access (Access.atOffset true off v)

/-- `RD` of an offset (R82). -/
def rd (off : BitVec 8) : HostEvent := .access (Access.atOffset false off 0)

/-- NOP (R83). -/
def nopEvent : HostEvent := wr 0x00 0

/-- INIT (R83). -/
def initEvent : HostEvent := wr 0x00 1

/-- COMPRESS (R83). -/
def compressEvent : HostEvent := wr 0x00 2

/-- LOADBLK w0, ..., w15: WR M0 .. WR M15, in that order (R83). -/
def loadBlock (w : Vector Word 16) : List HostEvent :=
  (List.finRange 16).map fun j => wr (slotOff (mSlot j)) w[j]

/-- RDDIGEST: RD H0 .. RD H7, in that order (R83). -/
def readDigest : List HostEvent := (List.finRange 8).map fun i => rd (slotOff (hSlot i))

/-- HASHBLK: LOADBLK; COMPRESS; POLL (R83). -/
def hashBlock (w : Vector Word 16) : List HostEvent := loadBlock w ++ [compressEvent, .poll]

/-- The hashing procedure over the blocks of a padded message (R222). -/
def hashProcedure (blocks : List (Vector Word 16)) : List HostEvent :=
  [initEvent] ++ blocks.flatMap hashBlock ++ [rd 0x08] ++ readDigest

end Sys2Proof.Machine
end

