-- ==== Sys2Proof/Safety.lean ====
section
/-! DEFINITION. The terms claims are stated in: the invariant of 10_state.md R32, a compression in progress
(41_message_schedule.md R127, 42_compression.md R150), the end of a run (92_eei_decisions.md D29) and a valid digest
(60_exceptions.md R205). -/

namespace Sys2Proof.Machine

/-- R32's invariant, and R220's: while reset is asserted the block holds its reset values. -/
structure State.Inv (s : State) : Prop where
  /-- BUSY = 0 implies t = 0. -/
  idle : s.busy = false → s.t = 0
  /-- BUSY = 1 implies 0 ≤ t ≤ 80. -/
  counter : s.busy = true → s.t.toNat ≤ 80
  /-- DONE = 1 implies BUSY = 0. -/
  finished : s.done = true → s.busy = false
  /-- ERR = 0 implies ERRCODE = 0. -/
  noError : s.err = false → s.errcode = 0
  /-- ERR = 1 implies ERRCODE ∈ {1, 2}. -/
  errorCode : s.err = true → s.errcode = 1 ∨ s.errcode = 2
  /-- ERRCODE = 1 and BUSY = 0 imply DONE = 1. -/
  busyError : s.errcode = 1 → s.busy = false → s.done = true
  /-- While reset is asserted every element of the state has its reset value (R220). -/
  held : s.resetIn = true → s.resetBlock = s

/-- At the start of round t, slot j of the window holds W[n], n the greatest number below max(t, 16) with
n ≡ j (mod 16) (R127). -/
def WindowHolds (M : Vector Word 16) (t : Nat) (Wwin : Vector Word 16) : Prop :=
  ∀ (j : Fin 16) (n : Nat), n < max t 16 → max t 16 ≤ n + 16 → n % 16 = j.val → Wwin[j] = scheduleWord M n

/-- A compression of block M0 from hash state H0 is in progress: t rounds have run and H still has its pre-block value
(R127, R149, R150). -/
structure State.Compressing (s : State) (H0 : Vector Word 8) (M0 : Vector Word 16) : Prop where
  noReset : s.resetIn = false
  busy : s.busy = true
  counter : s.t.toNat ≤ 80
  hash : s.H = H0
  vars : s.wv = roundsOf M0 (WorkVars.ofHash H0) s.t.toNat
  window : WindowHolds M0 s.t.toNat s.Wwin

/-- The end of a run: the host has no event left, BUSY = 0 and reset is not asserted (D29). -/
def State.finished (s : State) : Bool := s.host.isEmpty && !s.busy && !s.resetIn

/-- H may be taken as the digest: BUSY = 0 has been seen and ERR = 0 (R205). -/
def State.digestValid (s : State) : Bool := !s.busy && !s.err

/-- The next step is the host's: reset is not asserted, and the engine has no step or lets the host go first (R184). -/
def State.hostTurn (s : State) : Prop := s.resetIn = false ∧ (s.engineFetch = none ∨ s.patience ≠ 0)

/-- The next step is the engine's: it has a step, and the host's turns are used up or the host has nothing to do
(R184). -/
def State.engineTurn (s : State) : Prop := s.engineFetch.isSome = true ∧ (s.patience = 0 ∨ s.host = [])

/-- The state with everything the host cannot see blanked: a..h, Wwin and t (R34). -/
def State.hostView (s : State) : State := { s with wv := WorkVars.zero, Wwin := Vector.replicate 16 0, t := 0 }

/-- The first 80 primes, 2 to 409, by trial division (R140). -/
def firstPrimes : List Nat :=
  (List.range 410).filter fun n => 2 ≤ n && (List.range n).all fun d => d < 2 || n % d != 0

/-- w is the first 64 bits of the fractional part of the r-th root of p: for some whole part n,
n · 2^64 + w ≤ 2^64 · p^(1/r) < n · 2^64 + w + 1, and w < 2^64 (R140, R141). -/
def RootFraction (r p : Nat) (w : Word) : Prop :=
  ∃ n : Nat, (n * 2 ^ 64 + w.toNat) ^ r ≤ p * 2 ^ (64 * r) ∧ p * 2 ^ (64 * r) < (n * 2 ^ 64 + w.toNat + 1) ^ r

end Sys2Proof.Machine
end

