-- ==== Sys2Proof/Certificates/Slice0/Obligations.lean ====
section
/-! DEFINITION. The statements made about the model, for the provers. A statement about `exec` of a host instruction holds
whatever the level of the reset input: the step, not `exec`, refuses an access while reset is asserted (R220; log 13). -/

open Sys2Proof Sys2Proof.Machine

/-! ### Encoding -/

/-- R84's worked encodings and words of 95_test_vectors.md sections 7, 9 and 10, each with the instruction it stands
for; two misaligned words spell nothing. -/
def Obligations.WordsOfTheSpecDecode : Prop :=
  decode (.host 0x1000000000000000001) = .ok (.init 0) ∧
  decode (.host 0x1f80000000000000018) = .ok (.wrM 15 0x18) ∧
  decode (.host 0x0080000000000000000) = .ok (.rdStatus 0) ∧
  decode (.host 0x0780000000000000000) = .ok (.rdH 7 0) ∧
  decode (.host 0x100fffffffffffffff0) = .ok (.nop 0xfffffffffffffff) ∧
  decode (.host 0x1000000000000000009) = .ok (.rsvdCmd8to15 9 0) ∧
  decode (.host 0x108ffffffffffffffff) = .ok (.wrStatus 0xffffffffffffffff) ∧
  decode (.host 0x110ffffffffffffffff) = .ok (.wrRsvd10to18 2 0xffffffffffffffff) ∧
  decode (.host 0x0280000000000000000) = .ok (.rdRsvd20to38 5 0) ∧
  decode (.engine 0xcf) = .ok (.round64to79 79) ∧
  decode (.engine 0xd0) = .ok .finalize ∧
  decode (.host 0x1040000000000000000) = .error .misaligned ∧
  decode (.host 0x0ff0000000000000000) = .error .misaligned

/-- Every well-formed instruction, with every operand, is read back from its encoding. -/
def Obligations.DecodeOfEncodeIsIdentity : Prop :=
  ∀ i : Instr, i.wf = true → decode (encode i) = .ok i

/-- Every word the decoder accepts is the encoding of the instruction it reads, and that instruction is well formed:
no bit of a transaction or an engine word is dropped. -/
def Obligations.DecodedWordIsEncoding : Prop :=
  ∀ (e : Encoded) (i : Instr), decode e = .ok i → i.wf = true ∧ encode i = e

/-- R79 and R80: every word the decoder accepts lies in exactly one row of the opcode table, the row of its
instruction's mnemonic, and a word it rejects lies in none. -/
def Obligations.OpcodeTableRowIsTheDecodedOne : Prop :=
  ∀ e : Encoded, rowsCovering e =
    match decode e with
    | .ok i => [i.mnemonic]
    | .error _ => []

/-- R79: a host transaction is decoded, to a host instruction, exactly when its offset is a multiple of 8. -/
def Obligations.HostDecoderIsTotal : Prop :=
  ∀ T : BitVec 73,
    ((hostOFF T).toNat % 8 = 0 → ∃ i, decode (.host T) = .ok i ∧ i.isHost = true) ∧
    ((hostOFF T).toNat % 8 ≠ 0 → decode (.host T) = .error .misaligned)

/-! ### A step runs the decoded instruction -/

/-- A host access whose transaction decodes to `i` is run as `i`; around it the event is taken off the host's list and
the host's turn is counted (`passTurn`, log 1). -/
def Obligations.StepRunsHostInstruction : Prop :=
  ∀ (s : State) (x : Access) (rest : List HostEvent) (i : Instr),
    s.hostTurn → s.host = .access x :: rest → x.master = .host → 0 ≤ x.disp → x.disp ≤ 0xff → x.width = 64 →
    decode (.host (hostWord x.we (BitVec.ofNat 8 x.disp.toNat) x.data)) = .ok i →
    step s = onNext (exec i s) (fun s1 => s.passTurn s1 rest)

/-- The engine's state word that decodes to `i` is run as `i`; around it the interleaving is drawn (`draw`, log 1). -/
def Obligations.StepRunsEngineInstruction : Prop :=
  ∀ (s : State) (i : Instr),
    s.resetIn = false → s.patience = 0 ∨ s.host = [] → decode (.engine (engineWord s.busy s.t)) = .ok i →
    step s = onNext (exec i s) State.draw

/-- R83: POLL is one RD STATUS, repeated exactly while the BUSY read was 1. -/
def Obligations.PollRepeatsWhileBusy : Prop :=
  ∀ (s : State) (rest : List HostEvent), s.hostTurn → s.host = .poll :: rest →
    step s = onNext (exec (.rdStatus 0) s) (fun s1 => s.passTurn s1 (if s.busy then .poll :: rest else rest))

/-- R212: with BUSY = 0, no host event and reset not asserted, nothing changes. -/
def Obligations.IdleBlockKeepsItsState : Prop :=
  ∀ s : State, s.finished = true → step s = .next s

/-! ### Reset -/

/-- R31: the reset values. -/
def Obligations.ResetLeavesTheSpecifiedValues : Prop :=
  State.reset.H = #v[0x6a09e667f3bcc908, 0xbb67ae8584caa73b, 0x3c6ef372fe94f82b, 0xa54ff53a5f1d36f1,
    0x510e527fade682d1, 0x9b05688c2b3e6c1f, 0x1f83d9abfb41bd6b, 0x5be0cd19137e2179] ∧
  State.reset.wv = { a := 0, b := 0, c := 0, d := 0, e := 0, f := 0, g := 0, h := 0 } ∧
  (∀ j : Fin 16, State.reset.M[j] = 0) ∧ (∀ j : Fin 16, State.reset.Wwin[j] = 0) ∧
  State.reset.t = 0 ∧ State.reset.busy = false ∧ State.reset.done = false ∧ State.reset.err = false ∧
  State.reset.errcode = 0

/-- R220: asserting reset takes every element of the block's state to its reset value at once, also during a
compression; the words the host has read and its remaining events are not the block's. -/
def Obligations.AssertingResetTakesEffectAtOnce : Prop :=
  ∀ (s : State) (rest : List HostEvent), s.hostTurn → s.host = .assertReset :: rest →
    step s = .next { State.reset with
      resetIn := true, host := rest, reads := s.reads, patience := s.patience, drawn := s.drawn }

/-- R220: a step taken while reset is asserted, the one that deasserts it too, leaves every element of the block's
state at its reset value. -/
def Obligations.AssertedResetHoldsTheBlock : Prop :=
  ∀ s s' : State, s.resetIn = true → step s = .next s' →
    s' = { State.reset with
      resetIn := s'.resetIn, host := s'.host, reads := s.reads, patience := s.patience, drawn := s.drawn } ∧
    (s'.resetIn = false → s.host = .releaseReset :: s'.host)

/-- R220: a host transaction presented while reset is asserted is refused. -/
def Obligations.TransactionDuringResetRefused : Prop :=
  ∀ (s : State) (x : Access) (rest : List HostEvent), s.resetIn = true →
    (s.host = .access x :: rest → step s = .refused .inReset) ∧
    (s.host = .poll :: rest → step s = .refused .inReset)

/-! ### Which accesses are performed -/

/-- R50, R51: the host's access at a host byte address (BASE is a multiple of 256, so the address and the offset have
the same bits 2:0). One that breaks a single requirement is refused under that requirement's name; one that breaks any
is refused. -/
def Obligations.AccessOutsideTheRulesRefused : Prop :=
  ∀ (s : State) (addr width : Nat) (we : Bool) (data : Word) (rest : List HostEvent),
    s.hostTurn → s.host = .access (Access.atAddress .host addr width we data) :: rest →
    (Config.base ≤ addr → addr ≤ Config.base + 0xff → addr % 8 ≠ 0 → width = 64 →
      step s = .refused .misaligned) ∧
    (Config.base ≤ addr → addr ≤ Config.base + 0xff → addr % 8 = 0 → width ≠ 64 →
      step s = .refused .badWidth) ∧
    (addr < Config.base ∨ Config.base + 0xff < addr → addr % 8 = 0 → width = 64 →
      step s = .refused .outsideWindow) ∧
    ((addr < Config.base ∨ Config.base + 0xff < addr) ∨ addr % 8 ≠ 0 ∨ width ≠ 64 →
      ∃ r, step s = .refused r)

/-- R50, R51, R57: on the host's turn, reset not asserted, a 64-bit access of the host at an aligned address of the
window is performed, idle or during a compression. -/
def Obligations.AlignedAccessIsPerformed : Prop :=
  ∀ (s : State) (addr : Nat) (we : Bool) (data : Word) (rest : List HostEvent),
    s.hostTurn → s.host = .access (Access.atAddress .host addr 64 we data) :: rest →
    Config.base ≤ addr → addr ≤ Config.base + 0xff → addr % 8 = 0 →
    ∃ i s', decode (.host (hostWord we (BitVec.ofNat 8 (addr - Config.base)) data)) = .ok i ∧
      exec i s = .next s' ∧ step s = .next (s.passTurn s' rest)

/-- R210: an access of a second host agent is refused, before any other ground is looked at (the model's order,
log 6). -/
def Obligations.SecondHostRefused : Prop :=
  ∀ (s : State) (x : Access) (rest : List HostEvent),
    s.hostTurn → s.host = .access x :: rest → x.master = .other → step s = .refused .secondHost

/-! ### Commands -/

/-- R170: the whole dispatch of a CTRL write, for every data word. -/
def Obligations.ControlWriteDispatch : Prop :=
  ∀ (s : State) (v : Word), ∃ i, decode (.host (hostWord true 0x00 v)) = .ok i ∧
    exec i s = .next (
      if 3 ≤ v.toNat % 16 then
        { s with err := true, errcode := if s.err then s.errcode else 2 }
      else if v.toNat % 16 = 0 then s
      else if s.busy then
        { s with err := true, errcode := if s.err then s.errcode else 1 }
      else if v.toNat % 16 = 1 then
        { s with H := initialHash, done := false, err := false, errcode := 0 }
      else
        { s with
          wv := { a := s.H[0], b := s.H[1], c := s.H[2], d := s.H[3], e := s.H[4], f := s.H[5], g := s.H[6],
                  h := s.H[7] }
          Wwin := s.M, t := 0, busy := true, done := false })

/-- R171: NOP changes nothing, in any state and for any DATA[63:4]. -/
def Obligations.NopChangesNothing : Prop :=
  (∀ (ign : BitVec 60) (s : State), exec (.nop ign) s = .next s) ∧
  (∀ v : Word, v.toNat % 16 = 0 → ∃ ign, decode (.host (hostWord true 0x00 v)) = .ok (.nop ign))

/-- R172: INIT is the CTRL write with CMD = 1; with BUSY = 0 it sets H to IV and clears DONE and the error record, and
a second INIT changes nothing more; with BUSY = 1 it is R175's. No other instruction clears ERR. -/
def Obligations.InitStartsANewMessage : Prop :=
  (∀ (ign : BitVec 60) (s : State),
    decode (.host (hostWord true 0x00 (commandData ign 1))) = .ok (.init ign) ∧
    exec (.init ign) s = .next (
      if s.busy then { s with err := true, errcode := if s.err then s.errcode else 1 }
      else { s with H := initialHash, done := false, err := false, errcode := 0 })) ∧
  (∀ (ign1 ign2 : BitVec 60) (s s1 : State), s.busy = false → exec (.init ign1) s = .next s1 →
    exec (.init ign2) s1 = .next s1) ∧
  (∀ (i : Instr) (s s' : State), exec i s = .next s' → s.err = true → s'.err = false →
    s.busy = false ∧ ∃ ign, i = .init ign)

/-- R125, R146, R173: COMPRESS is the CTRL write with CMD = 2; with BUSY = 0 it loads the working variables from H and
the window from M, starts the engine at t = 0, and leaves H, M and the error record. -/
def Obligations.CompressLoadsAndStarts : Prop :=
  ∀ (ign : BitVec 60) (s : State), s.busy = false →
    decode (.host (hostWord true 0x00 (commandData ign 2))) = .ok (.compress ign) ∧
    ∃ s', exec (.compress ign) s = .next s' ∧
      s'.wv = { a := s.H[0], b := s.H[1], c := s.H[2], d := s.H[3], e := s.H[4], f := s.H[5], g := s.H[6],
                h := s.H[7] } ∧
      (∀ j : Fin 16, s'.Wwin[j] = s.M[j]) ∧ s'.t = 0 ∧ s'.busy = true ∧ s'.done = false ∧
      s' = { s with wv := s'.wv, Wwin := s'.Wwin, t := s'.t, busy := s'.busy, done := s'.done }

/-- R174: a CTRL write with CMD = 3..15 is a reserved command; each sets ERR, whether or not BUSY = 1, records code 2
if ERR was 0, and does nothing else. -/
def Obligations.ReservedCommandRecordsItsError : Prop :=
  ∀ (cmd : BitVec 4) (ign : BitVec 60) (s : State),
    (3 ≤ cmd.toNat → decode (.host (hostWord true 0x00 (commandData ign cmd))) = .ok (
      if cmd.toNat = 3 then .rsvdCmd3 ign
      else if cmd.toNat < 8 then .rsvdCmd4to7 cmd ign
      else .rsvdCmd8to15 cmd ign)) ∧
    exec (.rsvdCmd3 ign) s = .next { s with err := true, errcode := if s.err then s.errcode else 2 } ∧
    exec (.rsvdCmd4to7 cmd ign) s = .next { s with err := true, errcode := if s.err then s.errcode else 2 } ∧
    exec (.rsvdCmd8to15 cmd ign) s = .next { s with err := true, errcode := if s.err then s.errcode else 2 }

/-- R175: a CTRL write with CMD = 1 or 2, INIT or COMPRESS, is dropped with BUSY = 1 and records code 1 if ERR was
0. -/
def Obligations.CommandWhileBusyDropped : Prop :=
  ∀ (ign : BitVec 60) (s : State), s.busy = true →
    decode (.host (hostWord true 0x00 (commandData ign 1))) = .ok (.init ign) ∧
    decode (.host (hostWord true 0x00 (commandData ign 2))) = .ok (.compress ign) ∧
    exec (.init ign) s = .next { s with err := true, errcode := if s.err then s.errcode else 1 } ∧
    exec (.compress ign) s = .next { s with err := true, errcode := if s.err then s.errcode else 1 }

/-- R200: set_error keeps the first code, sets ERR, and changes no other state; it alone sets ERR, called by a reserved
command with code 2 and by INIT or COMPRESS with BUSY = 1 with code 1. -/
def Obligations.SetErrorKeepsTheFirstCode : Prop :=
  (∀ (s : State) (code : BitVec 4),
    (s.err = true → s.setError code = s) ∧
    (s.err = false → s.setError code = { s with err := true, errcode := code })) ∧
  (∀ (i : Instr) (s s' : State), exec i s = .next s' → s.err = false → s'.err = true →
    (s' = s.setError 2 ∧ i.mnemonic = "RSVD_CMD") ∨
    (s' = s.setError 1 ∧ s.busy = true ∧ (i.mnemonic = "INIT" ∨ i.mnemonic = "COMPRESS")))

/-! ### Register reads and writes -/

/-- R71, the read column: every aligned offset is read, with no effect but the returned word, and the word is the one
the register map gives. -/
def Obligations.ReadsFollowTheRegisterMap : Prop :=
  ∀ (s : State) (off : BitVec 8) (data : Word), off.toNat % 8 = 0 →
    ∃ i w, decode (.host (hostWord false off data)) = .ok i ∧
      exec i s = .next { s with reads := w :: s.reads } ∧
      (off.toNat = 0x00 → w = 0) ∧
      (off.toNat = 0x08 →
        w.toNat = s.errcode.toNat * 16 + s.err.toNat * 4 + s.done.toNat * 2 + s.busy.toNat) ∧
      (0x10 ≤ off.toNat → off.toNat ≤ 0x38 → w = 0) ∧
      (∀ k : Fin 8, off.toNat = 0x40 + 8 * k.val → w = s.H[k]) ∧
      (∀ j : Fin 16, off.toNat = 0x80 + 8 * j.val → w = s.M[j])

/-- R71, the write column but for CTRL: a write below 0x80 is ignored, a write of M[j] sets that word only. -/
def Obligations.WritesFollowTheRegisterMap : Prop :=
  ∀ (s : State) (off : BitVec 8) (data : Word), off.toNat % 8 = 0 → off.toNat ≠ 0 →
    ∃ i s', decode (.host (hostWord true off data)) = .ok i ∧ exec i s = .next s' ∧
      s' = { s with M := s'.M } ∧
      (∀ j : Fin 16, s'.M[j] = if off.toNat = 0x80 + 8 * j.val then data else s.M[j])

/-- R176, R183: a read of CTRL or of a reserved offset returns 0 and changes nothing; a write of a reserved offset
changes nothing. -/
def Obligations.ControlAndReservedAccesses : Prop :=
  ∀ (slot : BitVec 5) (data : Word) (s : State),
    decode (.host (hostWord false 0x00 data)) = .ok (.rdCtrl data) ∧
    exec (.rdCtrl data) s = .next { s with reads := 0 :: s.reads } ∧
    (2 ≤ slot.toNat → slot.toNat ≤ 3 →
      decode (.host (hostWord false (slotOff slot) data)) = .ok (.rdRsvd10to18 slot data) ∧
      decode (.host (hostWord true (slotOff slot) data)) = .ok (.wrRsvd10to18 slot data)) ∧
    (4 ≤ slot.toNat → slot.toNat ≤ 7 →
      decode (.host (hostWord false (slotOff slot) data)) = .ok (.rdRsvd20to38 slot data) ∧
      decode (.host (hostWord true (slotOff slot) data)) = .ok (.wrRsvd20to38 slot data)) ∧
    exec (.rdRsvd10to18 slot data) s = .next { s with reads := 0 :: s.reads } ∧
    exec (.rdRsvd20to38 slot data) s = .next { s with reads := 0 :: s.reads } ∧
    exec (.wrRsvd10to18 slot data) s = .next s ∧ exec (.wrRsvd20to38 slot data) s = .next s

/-- R75: a STATUS read returns the fields at their bits, 0 in bit 3 and bits 63:8, and clears nothing; a STATUS write is
ignored; after reset every field is 0. -/
def Obligations.StatusReadReturnsTheFields : Prop :=
  State.reset.statusWord = 0 ∧
  ∀ (data : Word) (s : State), ∃ w,
    decode (.host (hostWord false 0x08 data)) = .ok (.rdStatus data) ∧
    decode (.host (hostWord true 0x08 data)) = .ok (.wrStatus data) ∧
    exec (.rdStatus data) s = .next { s with reads := w :: s.reads } ∧ exec (.wrStatus data) s = .next s ∧
    w.getLsbD 0 = s.busy ∧ w.getLsbD 1 = s.done ∧ w.getLsbD 2 = s.err ∧ w.getLsbD 3 = false ∧
    w.extractLsb' 4 4 = s.errcode ∧ (∀ n, 8 ≤ n → w.getLsbD n = false)

/-- R179: a read of offset 0x40 + 8 i returns H[i] and changes nothing, also while BUSY = 1, when no instruction but
FINALIZE changes H; after reset and after INIT it returns IV[i]. -/
def Obligations.HashReadReturnsTheWord : Prop :=
  ∀ (k : Fin 8) (data : Word) (s : State),
    decode (.host (hostWord false (BitVec.ofNat 8 (0x40 + 8 * k.val)) data)) = .ok (.rdH k data) ∧
    exec (.rdH k data) s = .next { s with reads := s.H[k] :: s.reads } ∧
    (∀ (i : Instr) (s' : State), s.busy = true → i ≠ .finalize → exec i s = .next s' → s'.H = s.H) ∧
    State.reset.H[k] = initialHash[k] ∧
    (∀ (ign : BitVec 60) (s' : State), s.busy = false → exec (.init ign) s = .next s' → s'.H[k] = initialHash[k])

/-- R181: a read of offset 0x80 + 8 j returns the last value written, at any time, and changes nothing; after reset it
returns 0. -/
def Obligations.MessageReadReturnsTheLastWrite : Prop :=
  ∀ (j : Fin 16) (data : Word) (s : State),
    decode (.host (hostWord false (BitVec.ofNat 8 (0x80 + 8 * j.val)) data)) = .ok (.rdM j data) ∧
    exec (.rdM j data) s = .next { s with reads := s.M[j] :: s.reads } ∧ State.reset.M[j] = 0 ∧
    (∀ (k : Fin 16) (v : Word) (s' : State), exec (.wrM k v) s = .next s' →
      exec (.rdM j data) s' = .next { s' with reads := (if j = k then v else s.M[j]) :: s'.reads })

/-- R182: a write of offset 0x80 + 8 j sets M[j], at any time, and changes nothing else. -/
def Obligations.MessageWriteSetsOneWord : Prop :=
  ∀ (j : Fin 16) (v : Word) (s : State),
    decode (.host (hostWord true (BitVec.ofNat 8 (0x80 + 8 * j.val)) v)) = .ok (.wrM j v) ∧
    ∃ s', exec (.wrM j v) s = .next s' ∧ s'.M[j] = v ∧
      (∀ k : Fin 16, k ≠ j → s'.M[k] = s.M[k]) ∧ s' = { s with M := s'.M }

/-- R178, R180: writes of STATUS and of H change nothing. -/
def Obligations.IgnoredWritesChangeNothing : Prop :=
  ∀ (k : Fin 8) (data : Word) (s : State),
    decode (.host (hostWord true 0x08 data)) = .ok (.wrStatus data) ∧ exec (.wrStatus data) s = .next s ∧
    decode (.host (hostWord true (BitVec.ofNat 8 (0x40 + 8 * k.val)) data)) = .ok (.wrH k data) ∧
    exec (.wrH k data) s = .next s

/-! ### Engine -/

/-- R147: a ROUND step where the engine stands at round t. T1 and T2 are written out; the schedule word is R126's. -/
def Obligations.RoundStepMixesTheWorkingVariables : Prop :=
  ∀ s : State, s.resetIn = false → s.busy = true → ∃ (T1 T2 : Word) (s' : State),
    T1 = s.wv.h + bigSigma1 s.wv.e + ch s.wv.e s.wv.f s.wv.g + roundConstant s.t.toNat +
      schedWord s.Wwin s.t.toNat ∧
    T2 = bigSigma0 s.wv.a + maj s.wv.a s.wv.b s.wv.c ∧
    s'.wv = { a := T1 + T2, b := s.wv.a, c := s.wv.b, d := s.wv.c, e := s.wv.d + T1, f := s.wv.e, g := s.wv.f,
              h := s.wv.g } ∧
    s'.Wwin = schedWindow s.Wwin s.t.toNat ∧ s'.t = s.t + 1 ∧
    s' = { s with wv := s'.wv, Wwin := s'.Wwin, t := s'.t } ∧
    (s.t.toNat ≤ 63 → decode (.engine (engineWord s.busy s.t)) = .ok (.round0to63 s.t) ∧
      exec (.round0to63 s.t) s = .next s') ∧
    (64 ≤ s.t.toNat → s.t.toNat ≤ 79 → decode (.engine (engineWord s.busy s.t)) = .ok (.round64to79 s.t) ∧
      exec (.round64to79 s.t) s = .next s')

/-- R126: SchedWord(t), its word and the window it leaves. -/
def Obligations.ScheduleWordStep : Prop :=
  ∀ (Wwin : Vector Word 16) (t : Nat), t < 80 →
    (∀ j : Fin 16, t ≤ 15 → j.val = t → schedWord Wwin t = Wwin[j]) ∧
    (t ≤ 15 → schedWindow Wwin t = Wwin) ∧
    (∀ j2 j7 j15 j0 : Fin 16, 16 ≤ t → j2.val = (t - 2) % 16 → j7.val = (t - 7) % 16 → j15.val = (t - 15) % 16 →
      j0.val = t % 16 →
      schedWord Wwin t = smallSigma1 Wwin[j2] + Wwin[j7] + smallSigma0 Wwin[j15] + Wwin[j0] ∧
      ∀ j : Fin 16, (schedWindow Wwin t)[j] = if j = j0 then schedWord Wwin t else Wwin[j])

/-- R148: FINALIZE adds each working variable into its H word, clears t and BUSY, sets DONE, and changes nothing else. -/
def Obligations.FinalizeAddsIntoTheHash : Prop :=
  ∀ s : State, s.resetIn = false → s.busy = true → s.t = 80 →
    decode (.engine (engineWord s.busy s.t)) = .ok .finalize ∧
    exec .finalize s = .next { s with
      H := #v[s.H[0] + s.wv.a, s.H[1] + s.wv.b, s.H[2] + s.wv.c, s.H[3] + s.wv.d,
              s.H[4] + s.wv.e, s.H[5] + s.wv.f, s.H[6] + s.wv.g, s.H[7] + s.wv.h]
      t := 0, busy := false, done := true }

/-- R80, R184: where the engine does not stand at the step, with its operand in its row's range and reset not
asserted, there is no such step; exec says so by a fault (the model's choice, log 7). -/
def Obligations.EngineStepsStopWhereNotEnabled : Prop :=
  ∀ (s : State) (t : BitVec 7),
    (¬ (s.resetIn = false ∧ s.busy = true ∧ s.t = t ∧ t.toNat ≤ 63) →
      exec (.round0to63 t) s = .fault .engineNotEnabled) ∧
    (¬ (s.resetIn = false ∧ s.busy = true ∧ s.t = t ∧ 64 ≤ t.toNat ∧ t.toNat ≤ 79) →
      exec (.round64to79 t) s = .fault .engineNotEnabled) ∧
    (¬ (s.resetIn = false ∧ s.busy = true ∧ s.t = 80) → exec .finalize s = .fault .engineNotEnabled)

/-! ### Word functions -/

/-- R120: rotr(x, n) is shr(x, n) ∨ (x · 2^(64−n) mod 2^64), and its bit i is bit (i + n) mod 64 of x; rotr(x, 0) is
x. -/
def Obligations.RotationMovesEveryBit : Prop :=
  (∀ x : Word, rotr x 0 = x) ∧ ∀ (x : Word) (n i : Nat), 0 < n → n < 64 → i < 64 →
    rotr x n = shr x n ||| BitVec.ofNat 64 (x.toNat * 2 ^ (64 - n)) ∧
    (rotr x n).getLsbD i = x.getLsbD ((i + n) % 64)

/-- R121: shr(x, n) = ⌊x / 2^n⌋; its top n bits are 0. -/
def Obligations.ShiftIsLogical : Prop :=
  ∀ (x : Word) (n : Nat), 0 < n → n < 64 →
    (shr x n).toNat = x.toNat / 2 ^ n ∧ ∀ i, 64 - n ≤ i → (shr x n).getLsbD i = false

/-- R122, R123, R142, R143: each bit of σ0, σ1, Σ0, Σ1, in bits of the operand. -/
def Obligations.SigmaFunctionsBitByBit : Prop :=
  ∀ (x : Word) (i : Nat), i < 64 →
    (smallSigma0 x).getLsbD i =
      (x.getLsbD ((i + 1) % 64) ^^ x.getLsbD ((i + 8) % 64) ^^ (decide (i + 7 < 64) && x.getLsbD (i + 7))) ∧
    (smallSigma1 x).getLsbD i =
      (x.getLsbD ((i + 19) % 64) ^^ x.getLsbD ((i + 61) % 64) ^^ (decide (i + 6 < 64) && x.getLsbD (i + 6))) ∧
    (bigSigma0 x).getLsbD i =
      (x.getLsbD ((i + 28) % 64) ^^ x.getLsbD ((i + 34) % 64) ^^ x.getLsbD ((i + 39) % 64)) ∧
    (bigSigma1 x).getLsbD i =
      (x.getLsbD ((i + 14) % 64) ^^ x.getLsbD ((i + 18) % 64) ^^ x.getLsbD ((i + 41) % 64))

/-- Ch takes y where x is 1 and z where x is 0; Maj is the majority of the three bits: the spec's own inference, which
R144 and R145 mark as derived from their formulas. -/
def Obligations.ChooseAndMajorityBitByBit : Prop :=
  ∀ (x y z : Word) (i : Nat), i < 64 →
    (ch x y z).getLsbD i = (if x.getLsbD i then y.getLsbD i else z.getLsbD i) ∧
    ((maj x y z).getLsbD i = true ↔
      2 ≤ (x.getLsbD i).toNat + (y.getLsbD i).toNat + (z.getLsbD i).toNat)

/-- R140, R141: K[t] is the first 64 bits of the fractional part of the cube root of the (t+1)-th prime, IV[i] of the
square root of the (i+1)-th. -/
def Obligations.ConstantsAreRootFractions : Prop :=
  firstPrimes.length = 80 ∧
  (∀ t : Fin 80, RootFraction 3 (firstPrimes.getD t.val 0) (roundConstant t.val)) ∧
  (∀ k : Fin 8, RootFraction 2 (firstPrimes.getD k.val 0) initialHash[k])

/-! ### Schedule and compression -/

/-- R124: the schedule's first sixteen words and its recurrence. -/
def Obligations.ScheduleRecurrence : Prop :=
  ∀ (M : Vector Word 16) (t : Nat), t < 80 →
    (∀ j : Fin 16, j.val = t → scheduleWord M t = M[j]) ∧
    (16 ≤ t → scheduleWord M t =
      smallSigma1 (scheduleWord M (t - 2)) + scheduleWord M (t - 7) + smallSigma0 (scheduleWord M (t - 15)) +
        scheduleWord M (t - 16))

/-- R127 (the spec's own inference): the window loaded from M holds the schedule, every round keeps it so, and
SchedWord(t) is W[t]. -/
def Obligations.WindowTracksTheSchedule : Prop :=
  ∀ M : Vector Word 16, WindowHolds M 0 M ∧
    ∀ (t : Nat) (Wwin : Vector Word 16), t < 80 → WindowHolds M t Wwin →
      schedWord Wwin t = scheduleWord M t ∧ WindowHolds M (t + 1) (schedWindow Wwin t)

/-- R150 (the spec's own inference): an accepted COMPRESS starts a compression of (H, M), and every step of a state
with a compression in progress, the host's and the engine's alike, leaves it in progress, or finished with
H = compress(H0, M0), or abandoned by reset. -/
def Obligations.CompressionSurvivesEveryStep : Prop :=
  (∀ (s : State) (ign : BitVec 60), s.resetIn = false → s.busy = false →
    ∃ s', exec (.compress ign) s = .next s' ∧ s'.Compressing s.H s.M) ∧
  (∀ (s s' : State) (H0 : Vector Word 8) (M0 : Vector Word 16), s.Compressing H0 M0 → step s = .next s' →
    s'.Compressing H0 M0 ∨
    (s'.resetIn = false ∧ s'.busy = false ∧ s'.done = true ∧ s'.H = compressBlock H0 M0) ∨
    s'.resetIn = true)

/-- R150, R151, R228 (R150 and R151 are the spec's own inferences): a COMPRESS accepted with the host then silent takes
exactly 81 engine steps, BUSY stays 1 and H keeps its value until the last, and leaves H = compress(H, M), DONE = 1,
and M, ERR and ERRCODE as they were; H is then a valid digest in the sense of R205 exactly if ERR is 0. -/
def Obligations.CompressionTakesEightyOneSteps : Prop :=
  ∀ (s s1 : State) (ign : BitVec 60), s.resetIn = false → s.busy = false → s.host = [] →
    exec (.compress ign) s = .next s1 →
    (∀ k, k < 81 → ∃ sk, Host.Core.run core k s1 = .next sk ∧ sk.busy = true ∧ sk.t.toNat = k ∧ sk.H = s.H) ∧
    ∃ s2, Host.Core.run core 81 s1 = .next s2 ∧ s2.H = compressBlock s.H s.M ∧ s2.busy = false ∧ s2.done = true ∧
      s2.t = 0 ∧ s2.M = s.M ∧ s2.err = s.err ∧ s2.errcode = s.errcode ∧ s2.reads = s.reads ∧
      s2.digestValid = !s.err

/-- R150 (the spec's own inference): whatever the host does during a compression, with no reset among its events, the
first state in which BUSY is 0 again has H = compress(H0, M0). -/
def Obligations.FirstIdleStateHoldsTheResult : Prop :=
  ∀ (n : Nat) (s s' : State) (H0 : Vector Word 8) (M0 : Vector Word 16), s.Compressing H0 M0 →
    (∀ ev ∈ s.host, ev ≠ .assertReset) →
    (∀ k sk, k < n → Host.Core.run core k s = .next sk → sk.busy = true) →
    Host.Core.run core n s = .next s' → s'.busy = false →
    s'.H = compressBlock H0 M0 ∧ s'.done = true

/-- R184: weak fairness. Where the engine has a step, then within patience + 1 steps, whatever the host does, the run
is refused or the engine's step is no longer the one waiting: it was taken, or reset came. -/
def Obligations.EngineIsWeaklyFair : Prop :=
  ∀ s : State, s.engineFetch.isSome = true → ∃ n, 0 < n ∧ n ≤ s.patience + 1 ∧
    ((∃ r, Host.Core.run core n s = .refused r) ∨
      ∃ s', Host.Core.run core n s = .next s' ∧ s'.engineFetch ≠ s.engineFetch)

/-! ### Whole-machine rules -/

/-- The reset state meets the invariant of R32. -/
def Obligations.InvariantHoldsAtReset : Prop := State.reset.Inv

/-- R32 (the spec's own inference): every step keeps the invariant. -/
def Obligations.StepKeepsTheInvariant : Prop :=
  ∀ s s' : State, s.Inv → step s = .next s' → s'.Inv

/-- R177 (the spec's own inference): under the invariant exactly eight STATUS words occur, and each of them does. -/
def Obligations.StatusHasEightValues : Prop :=
  (∀ s : State, s.Inv → s.statusWord ∈ ([0x00, 0x01, 0x02, 0x15, 0x16, 0x24, 0x25, 0x26] : List Word)) ∧
  (∀ w ∈ ([0x00, 0x01, 0x02, 0x15, 0x16, 0x24, 0x25, 0x26] : List Word), ∃ s : State, s.Inv ∧ s.statusWord = w)

/-- R149: of all instructions only an accepted INIT and FINALIZE write H; of all steps, only those two and reset, so
H is constant while a compression runs. -/
def Obligations.HashWrittenOnlyByInitAndFinalize : Prop :=
  (∀ (i : Instr) (s s' : State), exec i s = .next s' →
    s'.H = s.H ∨ ((∃ ign, i = .init ign) ∧ s.busy = false ∧ s'.H = initialHash) ∨
    (i = .finalize ∧ s.busy = true ∧ s.t = 80)) ∧
  (∀ s s' : State, step s = .next s' →
    s'.H = s.H ∨ (s'.H = initialHash ∧ (s.busy = false ∨ s.resetIn = true ∨ s'.resetIn = true)) ∨
    (s.resetIn = false ∧ s.busy = true ∧ s.t = 80 ∧ s'.busy = false ∧ s'.done = true))

/-- R21, R22, R23, R24: which instructions write M, the working variables, the window and the counter. -/
def Obligations.RegistersHaveNamedWriters : Prop :=
  ∀ (i : Instr) (s s' : State), exec i s = .next s' →
    (s'.M = s.M ∨ ∃ j v, i = .wrM j v) ∧
    (s'.wv = s.wv ∧ s'.Wwin = s.Wwin ∨ ((∃ ign, i = .compress ign) ∧ s.busy = false) ∨
      (∃ t, i = .round0to63 t ∨ i = .round64to79 t)) ∧
    (s'.t = s.t ∨ ((∃ ign, i = .compress ign) ∧ s.busy = false) ∨ (∃ t, i = .round0to63 t ∨ i = .round64to79 t) ∨
      i = .finalize)

/-- R25, R26: BUSY is set only by an accepted COMPRESS and cleared only by FINALIZE; DONE is set only by FINALIZE and
cleared only by an accepted INIT or COMPRESS. -/
def Obligations.BusyAndDoneHaveNamedWriters : Prop :=
  ∀ (i : Instr) (s s' : State), exec i s = .next s' →
    (s.busy = false → s'.busy = true → ∃ ign, i = .compress ign) ∧
    (s.busy = true → s'.busy = false → i = .finalize) ∧
    (s.done = false → s'.done = true → i = .finalize) ∧
    (s.done = true → s'.done = false → s.busy = false ∧ ∃ ign, i = .init ign ∨ i = .compress ign)

/-- R27, R204: once ERR is 1 every instruction but an accepted INIT leaves ERR and ERRCODE as they are. -/
def Obligations.ErrorRecordIsSticky : Prop :=
  ∀ (i : Instr) (s s' : State), s.err = true → exec i s = .next s' →
    (s'.err = true ∧ s'.errcode = s.errcode) ∨
    ((∃ ign, i = .init ign) ∧ s.busy = false ∧ s'.err = false ∧ s'.errcode = 0)

/-- R150, R225: no host transaction disturbs a running compression. -/
def Obligations.HostCannotDisturbACompression : Prop :=
  ∀ (i : Instr) (s s' : State), i.isHost = true → s.busy = true → exec i s = .next s' →
    s' = { s with M := s'.M, err := s'.err, errcode := s'.errcode, reads := s'.reads }

/-- R34: what a host transaction returns and leaves visible does not depend on a..h, Wwin or t. -/
def Obligations.HiddenStateStaysHidden : Prop :=
  ∀ (i : Instr) (s1 s2 s1' s2' : State), i.isHost = true → s1.hostView = s2.hostView →
    exec i s1 = .next s1' → exec i s2 = .next s2' → s1'.hostView = s2'.hostView

/-- R57, R201: `exec` of every host instruction answers a next state, in every state. That `exec` does not look at the
reset input is the model's choice (log 13, DESIGN CHOICE): a transaction presented while reset is asserted is refused by
the step (R220, `TransactionDuringResetRefused`). -/
def Obligations.HostInstructionsAlwaysComplete : Prop :=
  ∀ (i : Instr) (s : State), i.isHost = true → ∃ s', exec i s = .next s'

/-- R151, R204: no step of the machine faults, whatever the state and the host's events. -/
def Obligations.StepNeverFaults : Prop :=
  ∀ (s : State) (f : Fault), step s ≠ .fault f

/-! ### Host functions -/

/-- R12: BE64(bytes64(w)) = w, and the first byte is the most significant. -/
def Obligations.WordBytesAreBigEndian : Prop :=
  ∀ w : Word, be64 (bytes64 w) = w ∧ (bytes64 w).length = 8 ∧ (bytes64 w).head? = some (w.extractLsb' 56 8)

/-- R101, R103: the padder refuses exactly the lengths out of range and the lengths that are not the message's, and no
digest comes of them; otherwise P = X ‖ 1 ‖ 0^k ‖ L with the least k that makes its length a multiple of 1024. -/
def Obligations.PaddingHasTheSpecifiedShape : Prop :=
  ∀ (X : List Bool) (l : Int),
    (l < 0 ∨ 2 ^ 128 ≤ l → pad X l = .error .invalidInputLength ∧ sha512 X l = .error .invalidInputLength) ∧
    (0 ≤ l → l < 2 ^ 128 → l ≠ X.length →
      pad X l = .error .lengthMismatch ∧ sha512 X l = .error .lengthMismatch) ∧
    (l < 2 ^ 128 → l = X.length → ∃ k L, pad X l = .ok (X ++ [true] ++ List.replicate k false ++ L) ∧
      L.length = 128 ∧ (∀ n, n < 128 → L.getD n false = X.length.testBit (127 - n)) ∧
      (X.length + 1 + k + 128) % 1024 = 0 ∧ ∀ k', (X.length + 1 + k' + 128) % 1024 = 0 → k ≤ k')

/-- R102, R104: on whole bytes the padder gives the byte form, whose length is a multiple of 128 and at least n + 17. -/
def Obligations.ByteFormOfPadding : Prop :=
  ∀ B : List Byte, 8 * B.length < 2 ^ 128 →
    pad (bitsOfBytes B) (8 * B.length) = .ok (bitsOfBytes (padBytes B)) ∧
    (padBytes B).length % 128 = 0 ∧ B.length + 17 ≤ (padBytes B).length ∧
    (padBytes B).length / 128 = (B.length + 16) / 128 + 1
end

