-- ==== Sys2Proof/Laws/Decode.lean ====
section
/-! SUPPORT. The fields of a transaction and of an engine word, taken out and put back. -/

namespace Sys2Proof

@[simp] theorem hostWE_hostWord (we : Bool) (off : BitVec 8) (data : Word) :
    hostWE (hostWord we off data) = we := by
  simp only [hostWE, hostWord, BitVec.getLsbD_append]
  cases we <;> simp

@[simp] theorem hostOFF_hostWord (we : Bool) (off : BitVec 8) (data : Word) :
    hostOFF (hostWord we off data) = off := by
  apply BitVec.eq_of_getLsbD_eq
  intro k hk
  simp only [hostOFF, hostWord, BitVec.getLsbD_extractLsb', BitVec.getLsbD_append]
  simp [hk]

@[simp] theorem hostDATA_hostWord (we : Bool) (off : BitVec 8) (data : Word) :
    hostDATA (hostWord we off data) = data := by
  apply BitVec.eq_of_getLsbD_eq
  intro k hk
  simp only [hostDATA, hostWord, BitVec.getLsbD_extractLsb', BitVec.getLsbD_append]
  simp [hk]

/-- A transaction is its three fields (R70). -/
theorem hostWord_fields (T : BitVec 73) : hostWord (hostWE T) (hostOFF T) (hostDATA T) = T := by
  apply BitVec.eq_of_getLsbD_eq
  intro k hk
  simp only [hostWord, BitVec.getLsbD_append, hostDATA, hostOFF, hostWE, BitVec.getLsbD_extractLsb',
    BitVec.getLsbD_ofBool]
  by_cases h1 : k < 64
  · simp [h1]
  · by_cases h2 : k - 64 < 8
    · have : 64 + (k - 64) = k := by omega
      simp [h1, h2, this]
    · have : k = 72 := by omega
      subst this; simp

@[simp] theorem offAligned_slotOff (slot : BitVec 5) : offAligned (slotOff slot) = true := by
  revert slot; decide

@[simp] theorem offSlot_slotOff (slot : BitVec 5) : offSlot (slotOff slot) = slot := by
  revert slot; decide

/-- An aligned offset is its slot's offset (R71). -/
theorem slotOff_offSlot (off : BitVec 8) (h : offAligned off = true) : slotOff (offSlot off) = off := by
  revert off; decide

/-- OFF[2:0] = 000 says that the offset is a multiple of 8. -/
theorem offAligned_iff (off : BitVec 8) : offAligned off = true ↔ off.toNat % 8 = 0 := by
  revert off; decide

@[simp] theorem dataCMD_commandData (ign : BitVec 60) (cmd : BitVec 4) : dataCMD (commandData ign cmd) = cmd := by
  apply BitVec.eq_of_getLsbD_eq
  intro k hk
  simp only [dataCMD, commandData, BitVec.getLsbD_extractLsb', BitVec.getLsbD_append]
  simp [hk]

@[simp] theorem dataIgnored_commandData (ign : BitVec 60) (cmd : BitVec 4) :
    dataIgnored (commandData ign cmd) = ign := by
  apply BitVec.eq_of_getLsbD_eq
  intro k hk
  simp only [dataIgnored, commandData, BitVec.getLsbD_extractLsb', BitVec.getLsbD_append]
  simp [hk]

/-- A command word is its two fields (R72). -/
theorem commandData_fields (data : Word) : commandData (dataIgnored data) (dataCMD data) = data := by
  apply BitVec.eq_of_getLsbD_eq
  intro k hk
  simp only [commandData, dataIgnored, dataCMD, BitVec.getLsbD_append, BitVec.getLsbD_extractLsb']
  by_cases h : k < 4
  · simp [h]
  · have h1 : 4 + (k - 4) = k := by omega
    have h2 : k - 4 < 60 := by omega
    simp [h, h1, h2]

@[simp] theorem engineBUSY_engineWord (busy : Bool) (t : BitVec 7) : engineBUSY (engineWord busy t) = busy := by
  revert busy t; decide

@[simp] theorem engineT_engineWord (busy : Bool) (t : BitVec 7) : engineT (engineWord busy t) = t := by
  revert busy t; decide

/-- An engine word is its two fields (R80). -/
theorem engineWord_fields (E : BitVec 8) : engineWord (engineBUSY E) (engineT E) = E := by
  revert E; decide

@[simp] theorem slotH_hSlot (k : Fin 8) : slotH (hSlot k) = k := by revert k; decide

@[simp] theorem slotM_mSlot (j : Fin 16) : slotM (mSlot j) = j := by revert j; decide

@[simp] theorem hSlot_toNat (k : Fin 8) : (hSlot k).toNat = 8 + k.val := by revert k; decide

@[simp] theorem mSlot_toNat (j : Fin 16) : (mSlot j).toNat = 16 + j.val := by revert j; decide

/-- A slot of the H range is the slot of its index (R77). -/
theorem hSlot_slotH (slot : BitVec 5) (h1 : 8 ≤ slot.toNat) (h2 : slot.toNat < 16) : hSlot (slotH slot) = slot := by
  revert slot; decide

/-- A slot of the M range is the slot of its index (R77). -/
theorem mSlot_slotM (slot : BitVec 5) (h : 16 ≤ slot.toNat) : mSlot (slotM slot) = slot := by
  revert slot; decide

/-- The decoder on a transaction whose fields are known (R71). -/
theorem decode_hostWord (we : Bool) (slot : BitVec 5) (data : Word) :
    decode (.host (hostWord we (slotOff slot) data)) =
      .ok (if we then decodeWrite slot data else decodeRead slot data) := by
  cases we <;> simp [decode, decodeHost]

end Sys2Proof
end

