-- ==== Sys2Proof/Laws/State.lean ====
section
/-! SUPPORT. One lemma per field per update of the state, and what the shared operations keep. -/

namespace Sys2Proof.Machine

variable (s : State)

/-! ### answer -/

@[simp] theorem State.answer_H (w : Word) : (s.answer w).H = s.H := rfl
@[simp] theorem State.answer_wv (w : Word) : (s.answer w).wv = s.wv := rfl
@[simp] theorem State.answer_M (w : Word) : (s.answer w).M = s.M := rfl
@[simp] theorem State.answer_Wwin (w : Word) : (s.answer w).Wwin = s.Wwin := rfl
@[simp] theorem State.answer_t (w : Word) : (s.answer w).t = s.t := rfl
@[simp] theorem State.answer_busy (w : Word) : (s.answer w).busy = s.busy := rfl
@[simp] theorem State.answer_done (w : Word) : (s.answer w).done = s.done := rfl
@[simp] theorem State.answer_err (w : Word) : (s.answer w).err = s.err := rfl
@[simp] theorem State.answer_errcode (w : Word) : (s.answer w).errcode = s.errcode := rfl
@[simp] theorem State.answer_resetIn (w : Word) : (s.answer w).resetIn = s.resetIn := rfl
@[simp] theorem State.answer_host (w : Word) : (s.answer w).host = s.host := rfl
@[simp] theorem State.answer_reads (w : Word) : (s.answer w).reads = w :: s.reads := rfl
@[simp] theorem State.answer_patience (w : Word) : (s.answer w).patience = s.patience := rfl
@[simp] theorem State.answer_drawn (w : Word) : (s.answer w).drawn = s.drawn := rfl

/-! ### setM -/

@[simp] theorem State.setM_H (j : Fin 16) (v : Word) : (s.setM j v).H = s.H := rfl
@[simp] theorem State.setM_wv (j : Fin 16) (v : Word) : (s.setM j v).wv = s.wv := rfl
@[simp] theorem State.setM_M (j : Fin 16) (v : Word) : (s.setM j v).M = s.M.set j.val v j.isLt := rfl
@[simp] theorem State.setM_Wwin (j : Fin 16) (v : Word) : (s.setM j v).Wwin = s.Wwin := rfl
@[simp] theorem State.setM_t (j : Fin 16) (v : Word) : (s.setM j v).t = s.t := rfl
@[simp] theorem State.setM_busy (j : Fin 16) (v : Word) : (s.setM j v).busy = s.busy := rfl
@[simp] theorem State.setM_done (j : Fin 16) (v : Word) : (s.setM j v).done = s.done := rfl
@[simp] theorem State.setM_err (j : Fin 16) (v : Word) : (s.setM j v).err = s.err := rfl
@[simp] theorem State.setM_errcode (j : Fin 16) (v : Word) : (s.setM j v).errcode = s.errcode := rfl
@[simp] theorem State.setM_resetIn (j : Fin 16) (v : Word) : (s.setM j v).resetIn = s.resetIn := rfl
@[simp] theorem State.setM_host (j : Fin 16) (v : Word) : (s.setM j v).host = s.host := rfl
@[simp] theorem State.setM_reads (j : Fin 16) (v : Word) : (s.setM j v).reads = s.reads := rfl
@[simp] theorem State.setM_patience (j : Fin 16) (v : Word) : (s.setM j v).patience = s.patience := rfl
@[simp] theorem State.setM_drawn (j : Fin 16) (v : Word) : (s.setM j v).drawn = s.drawn := rfl

/-! ### startMessage -/

@[simp] theorem State.startMessage_H : (s.startMessage).H = initialHash := rfl
@[simp] theorem State.startMessage_wv : (s.startMessage).wv = s.wv := rfl
@[simp] theorem State.startMessage_M : (s.startMessage).M = s.M := rfl
@[simp] theorem State.startMessage_Wwin : (s.startMessage).Wwin = s.Wwin := rfl
@[simp] theorem State.startMessage_t : (s.startMessage).t = s.t := rfl
@[simp] theorem State.startMessage_busy : (s.startMessage).busy = s.busy := rfl
@[simp] theorem State.startMessage_done : (s.startMessage).done = false := rfl
@[simp] theorem State.startMessage_err : (s.startMessage).err = false := rfl
@[simp] theorem State.startMessage_errcode : (s.startMessage).errcode = 0 := rfl
@[simp] theorem State.startMessage_resetIn : (s.startMessage).resetIn = s.resetIn := rfl
@[simp] theorem State.startMessage_host : (s.startMessage).host = s.host := rfl
@[simp] theorem State.startMessage_reads : (s.startMessage).reads = s.reads := rfl
@[simp] theorem State.startMessage_patience : (s.startMessage).patience = s.patience := rfl
@[simp] theorem State.startMessage_drawn : (s.startMessage).drawn = s.drawn := rfl

/-! ### startCompression -/

@[simp] theorem State.startCompression_H : (s.startCompression).H = s.H := rfl
@[simp] theorem State.startCompression_wv : (s.startCompression).wv = WorkVars.ofHash s.H := rfl
@[simp] theorem State.startCompression_M : (s.startCompression).M = s.M := rfl
@[simp] theorem State.startCompression_Wwin : (s.startCompression).Wwin = s.M := rfl
@[simp] theorem State.startCompression_t : (s.startCompression).t = 0 := rfl
@[simp] theorem State.startCompression_busy : (s.startCompression).busy = true := rfl
@[simp] theorem State.startCompression_done : (s.startCompression).done = false := rfl
@[simp] theorem State.startCompression_err : (s.startCompression).err = s.err := rfl
@[simp] theorem State.startCompression_errcode : (s.startCompression).errcode = s.errcode := rfl
@[simp] theorem State.startCompression_resetIn : (s.startCompression).resetIn = s.resetIn := rfl
@[simp] theorem State.startCompression_host : (s.startCompression).host = s.host := rfl
@[simp] theorem State.startCompression_reads : (s.startCompression).reads = s.reads := rfl
@[simp] theorem State.startCompression_patience : (s.startCompression).patience = s.patience := rfl
@[simp] theorem State.startCompression_drawn : (s.startCompression).drawn = s.drawn := rfl

/-! ### runRound -/

@[simp] theorem State.runRound_H : (s.runRound).H = s.H := rfl
@[simp] theorem State.runRound_wv : (s.runRound).wv = s.wv.round (roundConstant s.t.toNat) (schedWord s.Wwin s.t.toNat) := rfl
@[simp] theorem State.runRound_M : (s.runRound).M = s.M := rfl
@[simp] theorem State.runRound_Wwin : (s.runRound).Wwin = schedWindow s.Wwin s.t.toNat := rfl
@[simp] theorem State.runRound_t : (s.runRound).t = s.t + 1 := rfl
@[simp] theorem State.runRound_busy : (s.runRound).busy = s.busy := rfl
@[simp] theorem State.runRound_done : (s.runRound).done = s.done := rfl
@[simp] theorem State.runRound_err : (s.runRound).err = s.err := rfl
@[simp] theorem State.runRound_errcode : (s.runRound).errcode = s.errcode := rfl
@[simp] theorem State.runRound_resetIn : (s.runRound).resetIn = s.resetIn := rfl
@[simp] theorem State.runRound_host : (s.runRound).host = s.host := rfl
@[simp] theorem State.runRound_reads : (s.runRound).reads = s.reads := rfl
@[simp] theorem State.runRound_patience : (s.runRound).patience = s.patience := rfl
@[simp] theorem State.runRound_drawn : (s.runRound).drawn = s.drawn := rfl

/-! ### runFinalize -/

@[simp] theorem State.runFinalize_H : (s.runFinalize).H = s.wv.addTo s.H := rfl
@[simp] theorem State.runFinalize_wv : (s.runFinalize).wv = s.wv := rfl
@[simp] theorem State.runFinalize_M : (s.runFinalize).M = s.M := rfl
@[simp] theorem State.runFinalize_Wwin : (s.runFinalize).Wwin = s.Wwin := rfl
@[simp] theorem State.runFinalize_t : (s.runFinalize).t = 0 := rfl
@[simp] theorem State.runFinalize_busy : (s.runFinalize).busy = false := rfl
@[simp] theorem State.runFinalize_done : (s.runFinalize).done = true := rfl
@[simp] theorem State.runFinalize_err : (s.runFinalize).err = s.err := rfl
@[simp] theorem State.runFinalize_errcode : (s.runFinalize).errcode = s.errcode := rfl
@[simp] theorem State.runFinalize_resetIn : (s.runFinalize).resetIn = s.resetIn := rfl
@[simp] theorem State.runFinalize_host : (s.runFinalize).host = s.host := rfl
@[simp] theorem State.runFinalize_reads : (s.runFinalize).reads = s.reads := rfl
@[simp] theorem State.runFinalize_patience : (s.runFinalize).patience = s.patience := rfl
@[simp] theorem State.runFinalize_drawn : (s.runFinalize).drawn = s.drawn := rfl

/-! ### setError -/

@[simp] theorem State.setError_H (code : BitVec 4) : (s.setError code).H = s.H := rfl
@[simp] theorem State.setError_wv (code : BitVec 4) : (s.setError code).wv = s.wv := rfl
@[simp] theorem State.setError_M (code : BitVec 4) : (s.setError code).M = s.M := rfl
@[simp] theorem State.setError_Wwin (code : BitVec 4) : (s.setError code).Wwin = s.Wwin := rfl
@[simp] theorem State.setError_t (code : BitVec 4) : (s.setError code).t = s.t := rfl
@[simp] theorem State.setError_busy (code : BitVec 4) : (s.setError code).busy = s.busy := rfl
@[simp] theorem State.setError_done (code : BitVec 4) : (s.setError code).done = s.done := rfl
@[simp] theorem State.setError_err (code : BitVec 4) : (s.setError code).err = true := rfl
@[simp] theorem State.setError_errcode (code : BitVec 4) : (s.setError code).errcode = if s.err then s.errcode else code := rfl
@[simp] theorem State.setError_resetIn (code : BitVec 4) : (s.setError code).resetIn = s.resetIn := rfl
@[simp] theorem State.setError_host (code : BitVec 4) : (s.setError code).host = s.host := rfl
@[simp] theorem State.setError_reads (code : BitVec 4) : (s.setError code).reads = s.reads := rfl
@[simp] theorem State.setError_patience (code : BitVec 4) : (s.setError code).patience = s.patience := rfl
@[simp] theorem State.setError_drawn (code : BitVec 4) : (s.setError code).drawn = s.drawn := rfl

/-! ### draw -/

@[simp] theorem State.draw_H : (s.draw).H = s.H := rfl
@[simp] theorem State.draw_wv : (s.draw).wv = s.wv := rfl
@[simp] theorem State.draw_M : (s.draw).M = s.M := rfl
@[simp] theorem State.draw_Wwin : (s.draw).Wwin = s.Wwin := rfl
@[simp] theorem State.draw_t : (s.draw).t = s.t := rfl
@[simp] theorem State.draw_busy : (s.draw).busy = s.busy := rfl
@[simp] theorem State.draw_done : (s.draw).done = s.done := rfl
@[simp] theorem State.draw_err : (s.draw).err = s.err := rfl
@[simp] theorem State.draw_errcode : (s.draw).errcode = s.errcode := rfl
@[simp] theorem State.draw_resetIn : (s.draw).resetIn = s.resetIn := rfl
@[simp] theorem State.draw_host : (s.draw).host = s.host := rfl
@[simp] theorem State.draw_reads : (s.draw).reads = s.reads := rfl
@[simp] theorem State.draw_patience : (s.draw).patience = Config.hostTurns s.drawn := rfl
@[simp] theorem State.draw_drawn : (s.draw).drawn = s.drawn + 1 := rfl

/-! ### resetBlock -/

@[simp] theorem State.resetBlock_H : (s.resetBlock).H = initialHash := rfl
@[simp] theorem State.resetBlock_wv : (s.resetBlock).wv = WorkVars.zero := rfl
@[simp] theorem State.resetBlock_M : (s.resetBlock).M = Vector.replicate 16 0 := rfl
@[simp] theorem State.resetBlock_Wwin : (s.resetBlock).Wwin = Vector.replicate 16 0 := rfl
@[simp] theorem State.resetBlock_t : (s.resetBlock).t = 0 := rfl
@[simp] theorem State.resetBlock_busy : (s.resetBlock).busy = false := rfl
@[simp] theorem State.resetBlock_done : (s.resetBlock).done = false := rfl
@[simp] theorem State.resetBlock_err : (s.resetBlock).err = false := rfl
@[simp] theorem State.resetBlock_errcode : (s.resetBlock).errcode = 0 := rfl
@[simp] theorem State.resetBlock_resetIn : (s.resetBlock).resetIn = s.resetIn := rfl
@[simp] theorem State.resetBlock_host : (s.resetBlock).host = s.host := rfl
@[simp] theorem State.resetBlock_reads : (s.resetBlock).reads = s.reads := rfl
@[simp] theorem State.resetBlock_patience : (s.resetBlock).patience = s.patience := rfl
@[simp] theorem State.resetBlock_drawn : (s.resetBlock).drawn = s.drawn := rfl

/-! ### enterReset -/

@[simp] theorem State.enterReset_H (rest : List HostEvent) : (s.enterReset rest).H = initialHash := rfl
@[simp] theorem State.enterReset_wv (rest : List HostEvent) : (s.enterReset rest).wv = WorkVars.zero := rfl
@[simp] theorem State.enterReset_M (rest : List HostEvent) : (s.enterReset rest).M = Vector.replicate 16 0 := rfl
@[simp] theorem State.enterReset_Wwin (rest : List HostEvent) : (s.enterReset rest).Wwin = Vector.replicate 16 0 := rfl
@[simp] theorem State.enterReset_t (rest : List HostEvent) : (s.enterReset rest).t = 0 := rfl
@[simp] theorem State.enterReset_busy (rest : List HostEvent) : (s.enterReset rest).busy = false := rfl
@[simp] theorem State.enterReset_done (rest : List HostEvent) : (s.enterReset rest).done = false := rfl
@[simp] theorem State.enterReset_err (rest : List HostEvent) : (s.enterReset rest).err = false := rfl
@[simp] theorem State.enterReset_errcode (rest : List HostEvent) : (s.enterReset rest).errcode = 0 := rfl
@[simp] theorem State.enterReset_resetIn (rest : List HostEvent) : (s.enterReset rest).resetIn = true := rfl
@[simp] theorem State.enterReset_host (rest : List HostEvent) : (s.enterReset rest).host = rest := rfl
@[simp] theorem State.enterReset_reads (rest : List HostEvent) : (s.enterReset rest).reads = s.reads := rfl
@[simp] theorem State.enterReset_patience (rest : List HostEvent) : (s.enterReset rest).patience = s.patience := rfl
@[simp] theorem State.enterReset_drawn (rest : List HostEvent) : (s.enterReset rest).drawn = s.drawn := rfl

/-! ### leaveReset -/

@[simp] theorem State.leaveReset_H (rest : List HostEvent) : (s.leaveReset rest).H = initialHash := rfl
@[simp] theorem State.leaveReset_wv (rest : List HostEvent) : (s.leaveReset rest).wv = WorkVars.zero := rfl
@[simp] theorem State.leaveReset_M (rest : List HostEvent) : (s.leaveReset rest).M = Vector.replicate 16 0 := rfl
@[simp] theorem State.leaveReset_Wwin (rest : List HostEvent) : (s.leaveReset rest).Wwin = Vector.replicate 16 0 := rfl
@[simp] theorem State.leaveReset_t (rest : List HostEvent) : (s.leaveReset rest).t = 0 := rfl
@[simp] theorem State.leaveReset_busy (rest : List HostEvent) : (s.leaveReset rest).busy = false := rfl
@[simp] theorem State.leaveReset_done (rest : List HostEvent) : (s.leaveReset rest).done = false := rfl
@[simp] theorem State.leaveReset_err (rest : List HostEvent) : (s.leaveReset rest).err = false := rfl
@[simp] theorem State.leaveReset_errcode (rest : List HostEvent) : (s.leaveReset rest).errcode = 0 := rfl
@[simp] theorem State.leaveReset_resetIn (rest : List HostEvent) : (s.leaveReset rest).resetIn = false := rfl
@[simp] theorem State.leaveReset_host (rest : List HostEvent) : (s.leaveReset rest).host = rest := rfl
@[simp] theorem State.leaveReset_reads (rest : List HostEvent) : (s.leaveReset rest).reads = s.reads := rfl
@[simp] theorem State.leaveReset_patience (rest : List HostEvent) : (s.leaveReset rest).patience = s.patience := rfl
@[simp] theorem State.leaveReset_drawn (rest : List HostEvent) : (s.leaveReset rest).drawn = s.drawn := rfl

/-! ### reset -/

@[simp] theorem State.reset_H : State.reset.H = initialHash := rfl
@[simp] theorem State.reset_wv : State.reset.wv = WorkVars.zero := rfl
@[simp] theorem State.reset_M : State.reset.M = Vector.replicate 16 0 := rfl
@[simp] theorem State.reset_Wwin : State.reset.Wwin = Vector.replicate 16 0 := rfl
@[simp] theorem State.reset_t : State.reset.t = 0 := rfl
@[simp] theorem State.reset_busy : State.reset.busy = false := rfl
@[simp] theorem State.reset_done : State.reset.done = false := rfl
@[simp] theorem State.reset_err : State.reset.err = false := rfl
@[simp] theorem State.reset_errcode : State.reset.errcode = 0 := rfl

/-! ### passTurn: the host's bookkeeping keeps the block -/

@[simp] theorem State.passTurn_H (s1 : State) (rest : List HostEvent) : (s.passTurn s1 rest).H = s1.H := by
  unfold State.passTurn; split_ifs <;> rfl
@[simp] theorem State.passTurn_wv (s1 : State) (rest : List HostEvent) : (s.passTurn s1 rest).wv = s1.wv := by
  unfold State.passTurn; split_ifs <;> rfl
@[simp] theorem State.passTurn_M (s1 : State) (rest : List HostEvent) : (s.passTurn s1 rest).M = s1.M := by
  unfold State.passTurn; split_ifs <;> rfl
@[simp] theorem State.passTurn_Wwin (s1 : State) (rest : List HostEvent) : (s.passTurn s1 rest).Wwin = s1.Wwin := by
  unfold State.passTurn; split_ifs <;> rfl
@[simp] theorem State.passTurn_t (s1 : State) (rest : List HostEvent) : (s.passTurn s1 rest).t = s1.t := by
  unfold State.passTurn; split_ifs <;> rfl
@[simp] theorem State.passTurn_busy (s1 : State) (rest : List HostEvent) : (s.passTurn s1 rest).busy = s1.busy := by
  unfold State.passTurn; split_ifs <;> rfl
@[simp] theorem State.passTurn_done (s1 : State) (rest : List HostEvent) : (s.passTurn s1 rest).done = s1.done := by
  unfold State.passTurn; split_ifs <;> rfl
@[simp] theorem State.passTurn_err (s1 : State) (rest : List HostEvent) : (s.passTurn s1 rest).err = s1.err := by
  unfold State.passTurn; split_ifs <;> rfl
@[simp] theorem State.passTurn_errcode (s1 : State) (rest : List HostEvent) : (s.passTurn s1 rest).errcode = s1.errcode := by
  unfold State.passTurn; split_ifs <;> rfl
@[simp] theorem State.passTurn_resetIn (s1 : State) (rest : List HostEvent) : (s.passTurn s1 rest).resetIn = s1.resetIn := by
  unfold State.passTurn; split_ifs <;> rfl
@[simp] theorem State.passTurn_reads (s1 : State) (rest : List HostEvent) : (s.passTurn s1 rest).reads = s1.reads := by
  unfold State.passTurn; split_ifs <;> rfl
@[simp] theorem State.passTurn_host (s1 : State) (rest : List HostEvent) : (s.passTurn s1 rest).host = rest := by
  unfold State.passTurn; split_ifs <;> rfl

/-- Where the engine had a step waiting, the host step uses one of the host's turns. -/
theorem State.passTurn_of_engine (s1 : State) (rest : List HostEvent) (h : s.engineFetch.isSome = true) :
    s.passTurn s1 rest = { s1 with host := rest, patience := s.patience - 1 } := by
  simp [State.passTurn, h]

/-- Resetting twice is resetting once. -/
@[simp] theorem State.resetBlock_resetBlock : s.resetBlock.resetBlock = s.resetBlock := rfl

/-- The engine's waiting step depends on the reset input, BUSY and t alone. -/
theorem State.engineFetch_congr {s s' : State} (hr : s'.resetIn = s.resetIn) (hb : s'.busy = s.busy)
    (ht : s'.t = s.t) : s'.engineFetch = s.engineFetch := by
  simp [State.engineFetch, State.engineE, hr, hb, ht]

@[simp] theorem onNext_next (f : State → State) : onNext (.next s) f = .next (f s) := rfl

/-- `onNext` answers a next state exactly from a next state. -/
theorem onNext_eq_next {o : Result} {f : State → State} {s' : State} :
    onNext o f = .next s' ↔ ∃ s1, o = .next s1 ∧ s' = f s1 := by
  cases o <;> simp [onNext, eq_comm]

end Sys2Proof.Machine
end

