-- ==== Sys2Proof/Laws/Exec.lean ====
section
/-! SUPPORT. What each meaning answers, and what one step can do: the lemmas later proofs cite instead of unfolding. -/

namespace Sys2Proof.Machine

/-! ### Meanings -/

@[simp] theorem exec_nop (ign : BitVec 60) (s : State) : exec (.nop ign) s = .next s := rfl

@[simp] theorem exec_init (ign : BitVec 60) (s : State) :
    exec (.init ign) s = .next (if s.busy then s.setError cmdWhileBusy else s.startMessage) := by
  cases h : s.busy <;> simp [exec, execInit, h]

@[simp] theorem exec_compress (ign : BitVec 60) (s : State) :
    exec (.compress ign) s = .next (if s.busy then s.setError cmdWhileBusy else s.startCompression) := by
  cases h : s.busy <;> simp [exec, execCompress, h]

@[simp] theorem exec_rsvdCmd3 (ign : BitVec 60) (s : State) :
    exec (.rsvdCmd3 ign) s = .next (s.setError reservedCmd) := rfl

@[simp] theorem exec_rsvdCmd4to7 (cmd : BitVec 4) (ign : BitVec 60) (s : State) :
    exec (.rsvdCmd4to7 cmd ign) s = .next (s.setError reservedCmd) := rfl

@[simp] theorem exec_rsvdCmd8to15 (cmd : BitVec 4) (ign : BitVec 60) (s : State) :
    exec (.rsvdCmd8to15 cmd ign) s = .next (s.setError reservedCmd) := rfl

@[simp] theorem exec_rdCtrl (d : Word) (s : State) : exec (.rdCtrl d) s = .next (s.answer 0) := rfl

@[simp] theorem exec_rdStatus (d : Word) (s : State) : exec (.rdStatus d) s = .next (s.answer s.statusWord) := rfl

@[simp] theorem exec_wrStatus (d : Word) (s : State) : exec (.wrStatus d) s = .next s := rfl

@[simp] theorem exec_rdH (k : Fin 8) (d : Word) (s : State) : exec (.rdH k d) s = .next (s.answer s.H[k]) := rfl

@[simp] theorem exec_wrH (k : Fin 8) (d : Word) (s : State) : exec (.wrH k d) s = .next s := rfl

@[simp] theorem exec_rdM (j : Fin 16) (d : Word) (s : State) : exec (.rdM j d) s = .next (s.answer s.M[j]) := rfl

@[simp] theorem exec_wrM (j : Fin 16) (d : Word) (s : State) : exec (.wrM j d) s = .next (s.setM j d) := rfl

@[simp] theorem exec_rdRsvd10to18 (slot : BitVec 5) (d : Word) (s : State) :
    exec (.rdRsvd10to18 slot d) s = .next (s.answer 0) := rfl

@[simp] theorem exec_rdRsvd20to38 (slot : BitVec 5) (d : Word) (s : State) :
    exec (.rdRsvd20to38 slot d) s = .next (s.answer 0) := rfl

@[simp] theorem exec_wrRsvd10to18 (slot : BitVec 5) (d : Word) (s : State) :
    exec (.wrRsvd10to18 slot d) s = .next s := rfl

@[simp] theorem exec_wrRsvd20to38 (slot : BitVec 5) (d : Word) (s : State) :
    exec (.wrRsvd20to38 slot d) s = .next s := rfl

/-- Where the engine stands, as three facts (R184, R220). -/
theorem State.engineAt_iff (s : State) (t : BitVec 7) :
    s.engineAt t = true ↔ s.resetIn = false ∧ s.busy = true ∧ s.t = t := by
  simp [State.engineAt, and_assoc]

theorem exec_round0to63_eq_next {t : BitVec 7} {s s' : State} :
    exec (.round0to63 t) s = .next s' ↔ s.engineAt t = true ∧ t.toNat ≤ 63 ∧ s' = s.runRound := by
  simp only [exec, execRound0to63, Bool.and_eq_true, decide_eq_true_eq]
  split_ifs with h
  · exact ⟨fun e => ⟨h.1, h.2, by cases e; rfl⟩, fun e => by rw [e.2.2]⟩
  · exact ⟨fun e => (by cases e), fun e => absurd ⟨e.1, e.2.1⟩ h⟩

theorem exec_round64to79_eq_next {t : BitVec 7} {s s' : State} :
    exec (.round64to79 t) s = .next s' ↔
      s.engineAt t = true ∧ (64 ≤ t.toNat ∧ t.toNat ≤ 79) ∧ s' = s.runRound := by
  simp only [exec, execRound64to79, Bool.and_eq_true, decide_eq_true_eq]
  split_ifs with h
  · exact ⟨fun e => ⟨h.1, h.2, by cases e; rfl⟩, fun e => by rw [e.2.2]⟩
  · exact ⟨fun e => (by cases e), fun e => absurd ⟨e.1, e.2.1⟩ h⟩

theorem exec_finalize_eq_next {s s' : State} :
    exec .finalize s = .next s' ↔ s.engineAt 80 = true ∧ s' = s.runFinalize := by
  simp only [exec, execFinalize]
  split_ifs with h
  · exact ⟨fun e => ⟨h, by cases e; rfl⟩, fun e => by rw [e.2]⟩
  · exact ⟨fun e => (by cases e), fun e => absurd e.1 h⟩

/-! ### The engine's waiting step -/

/-- The decoder on the engine's state word (R80). -/
theorem decode_engineWord (busy : Bool) (t : BitVec 7) :
    decode (.engine (engineWord busy t)) =
      if busy then
        if t.toNat ≤ 63 then .ok (.round0to63 t)
        else if t.toNat ≤ 79 then .ok (.round64to79 t)
        else if t.toNat = 80 then .ok .finalize
        else .error .noEngineStep
      else .error .noEngineStep := by
  simp [decode, decodeEngine]

/-- The step the engine waits with, by the value of t (R184). -/
theorem State.engineFetch_eq (s : State) :
    s.engineFetch =
      if s.resetIn = false ∧ s.busy = true then
        if s.t.toNat ≤ 63 then some (.round0to63 s.t)
        else if s.t.toNat ≤ 79 then some (.round64to79 s.t)
        else if s.t.toNat = 80 then some .finalize
        else none
      else none := by
  unfold State.engineFetch State.engineE
  rw [decode_engineWord]
  cases s.resetIn <;> cases s.busy <;> simp
  split_ifs <;> rfl

/-- The engine has a step exactly while BUSY = 1, t ≤ 80 and reset is not asserted (R184, R220). -/
theorem State.engineFetch_isSome (s : State) :
    s.engineFetch.isSome = true ↔ s.resetIn = false ∧ s.busy = true ∧ s.t.toNat ≤ 80 := by
  rw [State.engineFetch_eq]
  split_ifs with h1 h2 h3 h4
  · simp [h1, h2.trans (by decide : 63 ≤ 80)]
  · simp [h1, h3.trans (by decide : 79 ≤ 80)]
  · simp [h1, h4]
  · simp only [Option.isSome_none, Bool.false_eq_true, false_iff, not_and]; intros; omega
  · simp only [Option.isSome_none, Bool.false_eq_true, false_iff]; tauto

/-- What the engine's waiting step does: a round for t ≤ 79, FINALIZE for t = 80 (R147, R148, R184). -/
theorem exec_of_engineFetch {s : State} {i : Instr} (h : s.engineFetch = some i) :
    exec i s = .next (if s.t.toNat = 80 then s.runFinalize else s.runRound) := by
  have h0 : s.resetIn = false ∧ s.busy = true ∧ s.t.toNat ≤ 80 := s.engineFetch_isSome.1 (by simp [h])
  obtain ⟨hr, hb, ht⟩ := h0
  rw [State.engineFetch_eq, if_pos ⟨hr, hb⟩] at h
  have hat : s.engineAt s.t = true := (s.engineAt_iff _).2 ⟨hr, hb, rfl⟩
  split_ifs at h with h1 h2 h3 <;> obtain rfl := Option.some.inj h
  · rw [if_neg (by omega)]; exact exec_round0to63_eq_next.2 ⟨hat, h1, rfl⟩
  · rw [if_neg (by omega)]; exact exec_round64to79_eq_next.2 ⟨hat, ⟨by omega, h2⟩, rfl⟩
  · have : s.t = 80 := BitVec.eq_of_toNat_eq h3
    rw [if_pos h3]; exact exec_finalize_eq_next.2 ⟨by rw [← this]; exact hat, rfl⟩

/-! ### The host's transactions -/

/-- A host instruction leaves the reset input, the remaining events and the interleaving to the step (R184). -/
theorem exec_host_keeps {i : Instr} {s s' : State} (hi : i.isHost = true) (h : exec i s = .next s') :
    s'.resetIn = s.resetIn ∧ s'.host = s.host ∧ s'.patience = s.patience ∧ s'.drawn = s.drawn := by
  cases i <;> simp [Instr.isHost] at hi <;> simp at h <;> subst h <;> (try split_ifs) <;> simp

/-- A host instruction while BUSY = 1 leaves H, a..h, Wwin, t, BUSY and DONE (R175, R225). -/
theorem exec_host_busy_keeps {i : Instr} {s s' : State} (hi : i.isHost = true) (hb : s.busy = true)
    (h : exec i s = .next s') :
    s'.H = s.H ∧ s'.wv = s.wv ∧ s'.Wwin = s.Wwin ∧ s'.t = s.t ∧ s'.busy = true ∧ s'.done = s.done := by
  cases i <;> simp [Instr.isHost] at hi <;> simp [hb] at h <;> subst h <;> simp [hb]

/-- The decoder reads a host instruction from a transaction. -/
theorem isHost_of_decode_host {T : BitVec 73} {i : Instr} (h : decode (.host T) = .ok i) : i.isHost = true := by
  simp only [decode, decodeHost, decodeWrite, decodeRead, decodeCommand] at h
  split_ifs at h <;> cases h <;> rfl

/-- An access that is fetched spells a host instruction (R51). -/
theorem isHost_of_fetch {x : Access} {i : Instr} (h : x.fetch = .ok i) : i.isHost = true := by
  unfold Access.fetch at h
  split_ifs at h
  split at h <;> cases h
  exact isHost_of_decode_host ‹_›

/-- What a step of the host can do when it answers a next state. -/
theorem hostStep_cases {ev : HostEvent} {rest : List HostEvent} {s s' : State}
    (h : hostStep ev rest s = .next s') :
    (∃ i s1 rest', i.isHost = true ∧ exec i s = .next s1 ∧ s' = s.passTurn s1 rest' ∧
      (∀ e ∈ rest', e ∈ ev :: rest)) ∨
    (ev = .assertReset ∧ s' = s.enterReset rest) ∨ (ev = .releaseReset ∧ s' = s.passTurn s rest) := by
  cases ev with
  | access x =>
    simp only [hostStep] at h
    split at h
    · obtain ⟨s1, h1, h2⟩ := onNext_eq_next.1 h
      exact .inl ⟨_, s1, rest, isHost_of_fetch ‹_›, h1, h2, fun e he => List.mem_cons_of_mem _ he⟩
    · cases h
  | poll =>
    simp only [hostStep] at h
    split at h
    · obtain ⟨s1, h1, h2⟩ := onNext_eq_next.1 h
      refine .inl ⟨_, s1, _, isHost_of_fetch ‹_›, h1, h2, fun e he => ?_⟩
      unfold pollRest at he
      split_ifs at he
      · exact he
      · exact List.mem_cons_of_mem _ he
    · cases h
  | assertReset => simp only [hostStep] at h; cases h; exact .inr (.inl ⟨rfl, rfl⟩)
  | releaseReset => simp only [hostStep] at h; cases h; exact .inr (.inr ⟨rfl, rfl⟩)

/-! ### The step -/

/-- What a step can do when it answers a next state: hold reset, take the engine's waiting step, take a step of the
host, or find nothing to do. -/
theorem step_cases {s s' : State} (h : step s = .next s') :
    (s.resetIn = true ∧ ((s.host = [] ∧ s' = s.resetBlock) ∨
      ∃ rest, (s.host = .assertReset :: rest ∧ s' = s.enterReset rest) ∨
        (s.host = .releaseReset :: rest ∧ s' = s.leaveReset rest))) ∨
    (s.engineTurn ∧ s' = (if s.t.toNat = 80 then s.runFinalize else s.runRound).draw) ∨
    (s.hostTurn ∧ ∃ ev rest, s.host = ev :: rest ∧ hostStep ev rest s = .next s') ∨
    (s.resetIn = false ∧ s.engineFetch = none ∧ s.host = [] ∧ s' = s) := by
  unfold step advance at h
  split_ifs at h with hr
  · refine .inl ⟨hr, ?_⟩
    unfold resetStep at h
    split at h <;> cases h
    · exact .inl ⟨‹_›, rfl⟩
    · exact .inr ⟨_, .inl ⟨‹_›, rfl⟩⟩
    · exact .inr ⟨_, .inr ⟨‹_›, rfl⟩⟩
  · have hr' : s.resetIn = false := by simpa using hr
    unfold runningStep at h
    split at h
    · rename_i i hf hh
      obtain ⟨s1, h1, rfl⟩ := onNext_eq_next.1 h
      rw [exec_of_engineFetch hf] at h1; cases h1
      exact .inr (.inl ⟨⟨by simp [hf], .inr hh⟩, rfl⟩)
    · rename_i i ev rest hf hh
      split_ifs at h with hp
      · obtain ⟨s1, h1, rfl⟩ := onNext_eq_next.1 h
        rw [exec_of_engineFetch hf] at h1; cases h1
        exact .inr (.inl ⟨⟨by simp [hf], .inl hp⟩, rfl⟩)
      · exact .inr (.inr (.inl ⟨⟨hr', .inr hp⟩, ev, rest, hh, h⟩))
    · rename_i ev rest hf hh
      exact .inr (.inr (.inl ⟨⟨hr', .inl hf⟩, ev, rest, hh, h⟩))
    · rename_i hf hh
      cases h
      exact .inr (.inr (.inr ⟨hr', hf, hh, rfl⟩))

/-- The host moves on its turn (R184). -/
theorem step_of_hostTurn {s : State} {ev : HostEvent} {rest : List HostEvent} (ht : s.hostTurn)
    (hh : s.host = ev :: rest) : step s = hostStep ev rest s := by
  obtain ⟨hr, h⟩ := ht
  simp only [step, advance, hr, runningStep, hh]
  cases hf : s.engineFetch with
  | none => simp
  | some i => simp [hf] at h; simp [h]

/-- The engine moves on its turn (R184). -/
theorem step_of_engineTurn {s : State} (ht : s.engineTurn) :
    step s = .next (if s.t.toNat = 80 then s.runFinalize else s.runRound).draw := by
  obtain ⟨hf, h⟩ := ht
  have hr := (s.engineFetch_isSome.1 hf).1
  obtain ⟨i, hi⟩ := Option.isSome_iff_exists.1 hf
  have he : engineStep i s = .next (if s.t.toNat = 80 then s.runFinalize else s.runRound).draw := by
    simp [engineStep, exec_of_engineFetch hi]
  simp only [step, advance, hr, runningStep, hi]
  cases hh : s.host with
  | nil => simpa using he
  | cons ev rest => simp [hh] at h; simp [h, he]

end Sys2Proof.Machine
end

