-- ==== Sys2Proof/Laws/PerInstr.lean ====
section
/-! SUPPORT. Facts proved instruction by instruction. RowMatch: the encoding of a well-formed instruction lies in
exactly one row of the opcode table, the one of its mnemonic (30_encoding.md R79 to R81). -/

namespace Sys2Proof.Laws

/-- WE, OFF and DATA[3:0] kept, the rest of DATA cleared. -/
theorem hostWord_and_lowMask (we : Bool) (off : BitVec 8) (data : Word) :
    hostWord we off data &&& hostWord true 0xff 0xf = hostWord we off (data &&& 0xf) := by
  apply BitVec.eq_of_getLsbD_eq
  intro k hk
  simp only [hostWord, BitVec.getLsbD_and, BitVec.getLsbD_append, BitVec.getLsbD_ofBool]
  by_cases h1 : k < 64
  · simp [h1]
  · by_cases h2 : k - 64 < 8
    · have h3 : (255#8).getLsbD (k - 64) = true := by
        rw [show (255#8) = BitVec.allOnes 8 from rfl, BitVec.getLsbD_allOnes]; simpa using h2
      simp [h1, h2, h3]
    · simp only [h1, h2, if_false]; simp; exact fun h _ => h

/-- A host row whose mask looks at DATA[3:0] at most sees only those bits of the transaction. -/
theorem covers_lowData (r : Row 73) (we : Bool) (off : BitVec 8) (data : Word)
    (h : r.mask &&& hostWord true 0xff 0xf = r.mask) :
    r.covers (hostWord we off data) = r.covers (hostWord we off (data &&& 0xf)) := by
  have key : hostWord we off data &&& r.mask = hostWord we off (data &&& 0xf) &&& r.mask := by
    rw [← hostWord_and_lowMask, BitVec.and_assoc, BitVec.and_comm (hostWord true 0xff 0xf), h]
  unfold Row.covers
  rw [key]

/-- The rows that cover a transaction depend on WE, OFF and DATA[3:0] alone. -/
theorem rowsCovering_lowData (we : Bool) (off : BitVec 8) (data : Word) :
    rowsCovering (.host (hostWord we off data)) = rowsCovering (.host (hostWord we off (data &&& 0xf))) := by
  have hm : ∀ r ∈ hostRows, r.mask &&& hostWord true 0xff 0xf = r.mask := by decide
  simp only [rowsCovering]
  rw [List.filter_congr fun r hr => covers_lowData r we off data (hm r hr)]

/-- DATA[3:0] of a word, as a word. -/
theorem lowData_eq (data : Word) : data &&& 0xf = BitVec.setWidth 64 (dataCMD data) := by
  apply BitVec.eq_of_getLsbD_eq
  intro k hk
  by_cases h : k < 4
  · have : k = 0 ∨ k = 1 ∨ k = 2 ∨ k = 3 := by omega
    rcases this with rfl | rfl | rfl | rfl <;> simp [dataCMD]
  · have h15 : (15#64).getLsbD k = false := by
      rw [show (15#64) = BitVec.setWidth 64 (15#4) from rfl, BitVec.getLsbD_setWidth]
      simp [BitVec.getLsbD_of_ge (15#4) k (by omega)]
    simp only [BitVec.getLsbD_and, BitVec.getLsbD_setWidth, dataCMD, BitVec.getLsbD_extractLsb']
    rw [show (0xf : Word) = 15#64 from rfl, h15]
    simp [h]

/-- The rows that cover a transaction, over the sixteen values of DATA[3:0]. -/
theorem rowsCovering_cmd (we : Bool) (off : BitVec 8) (data : Word) :
    rowsCovering (.host (hostWord we off data)) =
      rowsCovering (.host (hostWord we off (BitVec.setWidth 64 (dataCMD data)))) := by
  rw [rowsCovering_lowData, lowData_eq]

/-- A read's or a plain write's row does not depend on its data. -/
theorem rowsCovering_data (we : Bool) (off : BitVec 8) (names : List String)
    (h : ∀ c : BitVec 4, rowsCovering (.host (hostWord we off (BitVec.setWidth 64 c))) = names) (data : Word) :
    rowsCovering (.host (hostWord we off data)) = names := by
  rw [rowsCovering_cmd]; exact h _

/-- A command's row depends on CMD alone. -/
theorem rowsCovering_command (cmd : BitVec 4) (ign : BitVec 60) (names : List String)
    (h : rowsCovering (.host (hostWord true (slotOff 0) (BitVec.setWidth 64 cmd))) = names) :
    rowsCovering (.host (hostWord true (slotOff 0) (commandData ign cmd))) = names := by
  rw [rowsCovering_cmd, dataCMD_commandData]; exact h

namespace RowMatch

/-- A well-formed instruction's encoding lies in one row, the one of its mnemonic. -/
def Statement (i : Instr) : Prop := i.wf = true → rowsCovering (encode i) = [i.mnemonic]

theorem nop (ign : BitVec 60) : Statement (.nop ign) := fun _ => rowsCovering_command 0 ign ["NOP"] (by decide)

theorem init (ign : BitVec 60) : Statement (.init ign) := fun _ => rowsCovering_command 1 ign ["INIT"] (by decide)

theorem compress (ign : BitVec 60) : Statement (.compress ign) := fun _ =>
  rowsCovering_command 2 ign ["COMPRESS"] (by decide)

theorem rsvdCmd3 (ign : BitVec 60) : Statement (.rsvdCmd3 ign) := fun _ =>
  rowsCovering_command 3 ign ["RSVD_CMD"] (by decide)

theorem rsvdCmd4to7 (cmd : BitVec 4) (ign : BitVec 60) : Statement (.rsvdCmd4to7 cmd ign) := fun h =>
  rowsCovering_command cmd ign ["RSVD_CMD"] (by change (4 ≤ cmd.toNat && cmd.toNat ≤ 7) = true at h; revert cmd; decide)

theorem rsvdCmd8to15 (cmd : BitVec 4) (ign : BitVec 60) : Statement (.rsvdCmd8to15 cmd ign) := fun h =>
  rowsCovering_command cmd ign ["RSVD_CMD"] (by change decide (8 ≤ cmd.toNat) = true at h; revert cmd; decide)

theorem rdCtrl (data : Word) : Statement (.rdCtrl data) := fun _ =>
  rowsCovering_data false (slotOff 0) ["RD_CTRL"] (by decide) data

theorem rdStatus (data : Word) : Statement (.rdStatus data) := fun _ =>
  rowsCovering_data false (slotOff 1) ["RD_STATUS"] (by decide) data

theorem wrStatus (data : Word) : Statement (.wrStatus data) := fun _ =>
  rowsCovering_data true (slotOff 1) ["WR_STATUS"] (by decide) data

theorem rdH (k : Fin 8) (data : Word) : Statement (.rdH k data) := fun _ =>
  rowsCovering_data false (slotOff (hSlot k)) ["RD_H"] (by clear * -; revert k; decide) data

theorem wrH (k : Fin 8) (data : Word) : Statement (.wrH k data) := fun _ =>
  rowsCovering_data true (slotOff (hSlot k)) ["WR_H"] (by clear * -; revert k; decide) data

theorem rdM (j : Fin 16) (data : Word) : Statement (.rdM j data) := fun _ =>
  rowsCovering_data false (slotOff (mSlot j)) ["RD_M"] (by clear * -; revert j; decide) data

theorem wrM (j : Fin 16) (data : Word) : Statement (.wrM j data) := fun _ =>
  rowsCovering_data true (slotOff (mSlot j)) ["WR_M"] (by clear * -; revert j; decide) data

theorem rdRsvd10to18 (slot : BitVec 5) (data : Word) : Statement (.rdRsvd10to18 slot data) := fun h =>
  rowsCovering_data false (slotOff slot) ["RD_RSVD"]
    (by change (2 ≤ slot.toNat && slot.toNat ≤ 3) = true at h; revert slot; decide) data

theorem rdRsvd20to38 (slot : BitVec 5) (data : Word) : Statement (.rdRsvd20to38 slot data) := fun h =>
  rowsCovering_data false (slotOff slot) ["RD_RSVD"]
    (by change (4 ≤ slot.toNat && slot.toNat ≤ 7) = true at h; revert slot; decide) data

theorem wrRsvd10to18 (slot : BitVec 5) (data : Word) : Statement (.wrRsvd10to18 slot data) := fun h =>
  rowsCovering_data true (slotOff slot) ["WR_RSVD"]
    (by change (2 ≤ slot.toNat && slot.toNat ≤ 3) = true at h; revert slot; decide) data

theorem wrRsvd20to38 (slot : BitVec 5) (data : Word) : Statement (.wrRsvd20to38 slot data) := fun h =>
  rowsCovering_data true (slotOff slot) ["WR_RSVD"]
    (by change (4 ≤ slot.toNat && slot.toNat ≤ 7) = true at h; revert slot; decide) data

theorem round0to63 (t : BitVec 7) : Statement (.round0to63 t) := by revert t; unfold Statement; decide

theorem round64to79 (t : BitVec 7) : Statement (.round64to79 t) := by revert t; unfold Statement; decide

theorem finalize : Statement .finalize := by unfold Statement; decide

end RowMatch

end Sys2Proof.Laws
end

