-- ==== Sys2Proof/Laws/Run.lean ====
section
/-! SUPPORT. Runs of the machine, one step at a time. -/

namespace Sys2Proof.Machine

/-- `n` steps of this machine. -/
abbrev runSteps (n : Nat) (s : State) : Result := Host.Core.run core n s

theorem runSteps_zero (s : State) : runSteps 0 s = .next s := rfl

/-- A run whose first step answers a next state goes on from it. -/
theorem runSteps_of_next {s s' : State} (n : Nat) (h : step s = .next s') : runSteps (n + 1) s = runSteps n s' := by
  have hc : Host.Core.step core s = .next s' := h
  simp only [runSteps, Host.Core.run, hc]; rfl

/-- A run whose first step is refused is refused. -/
theorem runSteps_of_refused {s : State} {r : Refusal} (n : Nat) (h : step s = .refused r) :
    runSteps (n + 1) s = .refused r := by
  have hc : Host.Core.step core s = .refused r := h
  simp only [runSteps, Host.Core.run, hc]; rfl

/-- A run that answers a next state after one step or more took a first step that did. -/
theorem step_of_runSteps {s s' : State} {n : Nat} (h : runSteps (n + 1) s = .next s') :
    ∃ s1, step s = .next s1 ∧ runSteps n s1 = .next s' := by
  cases hs : step s with
  | next s1 => exact ⟨s1, rfl, (runSteps_of_next n hs).symm.trans h⟩
  | fault f =>
    have hc : Host.Core.step core s = .fault f := hs
    simp only [runSteps, Host.Core.run, hc] at h; cases h
  | refused r => rw [runSteps_of_refused n hs] at h; cases h

/-- One step more, at the end. -/
theorem runSteps_last {s s1 : State} {n : Nat} (h : runSteps n s = .next s1) : runSteps (n + 1) s = step s1 := by
  induction n generalizing s with
  | zero =>
    obtain rfl : s = s1 := by rw [runSteps_zero] at h; cases h; rfl
    cases hs : step s with
    | next s2 => rw [runSteps_of_next 0 hs, runSteps_zero]
    | fault f =>
      have hc : Host.Core.step core s = .fault f := hs
      simp only [runSteps, Host.Core.run, hc]; rfl
    | refused r => exact runSteps_of_refused 0 hs
  | succ n ih =>
    obtain ⟨s0, h0, h2⟩ := step_of_runSteps h
    rw [runSteps_of_next _ h0]; exact ih h2

end Sys2Proof.Machine
end

