-- ==== Sys2Proof/Tests/Slice0.lean ====
section
/-! SUPPORT. Tests of the model. Expected values come from 95_test_vectors.md (the section is named), from the tables
of 30_encoding.md, or from a hand calculation from a rule. The second half shows, for every statement that has
hypotheses, a state and operands that meet them. -/

namespace Sys2Proof.Tests

open Sys2Proof Sys2Proof.Machine

/-! ### WellFormed smoke: one ill-formed term for each check -/

theorem test_wf_refuses_command_numbers :
    (Instr.rsvdCmd4to7 3 0).wf = false ∧ (Instr.rsvdCmd4to7 8 0).wf = false ∧ (Instr.rsvdCmd8to15 7 0).wf = false := by
  decide

theorem test_wf_refuses_read_slots :
    (Instr.rdRsvd10to18 1 0).wf = false ∧ (Instr.rdRsvd10to18 4 0).wf = false ∧
    (Instr.rdRsvd20to38 3 0).wf = false ∧ (Instr.rdRsvd20to38 8 0).wf = false := by decide

theorem test_wf_refuses_write_slots :
    (Instr.wrRsvd10to18 1 0).wf = false ∧ (Instr.wrRsvd10to18 4 0).wf = false ∧
    (Instr.wrRsvd20to38 3 0).wf = false ∧ (Instr.wrRsvd20to38 8 0).wf = false := by decide

theorem test_wf_refuses_round_numbers :
    (Instr.round0to63 64).wf = false ∧ (Instr.round64to79 63).wf = false ∧ (Instr.round64to79 80).wf = false := by
  decide

/-! ### Decoding: words written out from 30_encoding.md R70 to R73, R80, R84 and 95_test_vectors.md sections 7, 9, 10 -/

theorem test_decode_commands :
    decode (.host 0x1000000000000000000) = .ok (.nop 0) ∧
    decode (.host 0x100fffffffffffffff1) = .ok (.init 0xfffffffffffffff) ∧
    decode (.host 0x1000000000000000002) = .ok (.compress 0) ∧
    decode (.host 0x1000000000000000003) = .ok (.rsvdCmd3 0) ∧
    decode (.host 0x1000000000000000007) = .ok (.rsvdCmd4to7 7 0) ∧
    decode (.host 0x100000000000000000f) = .ok (.rsvdCmd8to15 15 0) := by decide

theorem test_decode_reads :
    decode (.host 0x0000000000000000000) = .ok (.rdCtrl 0) ∧
    decode (.host 0x0080000000000000000) = .ok (.rdStatus 0) ∧
    decode (.host 0x0100000000000000000) = .ok (.rdRsvd10to18 2 0) ∧
    decode (.host 0x0380000000000000000) = .ok (.rdRsvd20to38 7 0) ∧
    decode (.host 0x0480000000000000000) = .ok (.rdH 1 0) ∧
    decode (.host 0x0f80000000000000000) = .ok (.rdM 15 0) := by decide

theorem test_decode_writes :
    decode (.host 0x108ffffffffffffffff) = .ok (.wrStatus 0xffffffffffffffff) ∧
    decode (.host 0x110ffffffffffffffff) = .ok (.wrRsvd10to18 2 0xffffffffffffffff) ∧
    decode (.host 0x1200000000000000000) = .ok (.wrRsvd20to38 4 0) ∧
    decode (.host 0x1400000000000000000) = .ok (.wrH 0 0) ∧
    decode (.host 0x1981122334455667788) = .ok (.wrM 3 0x1122334455667788) := by decide

/-- E = BUSY · 2^7 + t (R80); the words with BUSY = 0 or t ≥ 81 are no step. -/
theorem test_decode_engine :
    decode (.engine 0x80) = .ok (.round0to63 0) ∧ decode (.engine 0xbf) = .ok (.round0to63 63) ∧
    decode (.engine 0xc0) = .ok (.round64to79 64) ∧ decode (.engine 0xcf) = .ok (.round64to79 79) ∧
    decode (.engine 0xd0) = .ok .finalize ∧ decode (.engine 0xd1) = .error .noEngineStep ∧
    decode (.engine 0x00) = .error .noEngineStep := by decide

/-- Section 10: offsets 0x04, 0x09, 0x81 and 0xff are misaligned. -/
theorem test_decode_misaligned :
    decode (.host 0x1040000000000000000) = .error .misaligned ∧
    decode (.host 0x0090000000000000000) = .error .misaligned ∧
    decode (.host 0x1810000000000000000) = .error .misaligned ∧
    decode (.host 0x0ff0000000000000000) = .error .misaligned := by decide

theorem test_table_word :
    decodeTableWord 80 0x1000000000000000002 = some (.compress 0) ∧
    decodeTableWord 8 0xd0 = some .finalize ∧ decodeTableWord 8 0x7f = none ∧
    decodeTableWord 80 0x2000000000000000000 = none := by decide

/-! ### Primitive functions: tables 3a, 3b, 3c of section 3 -/

theorem test_one_input_functions :
    rotr 0x6a09e667f3bcc908 1 = 0x3504f333f9de6484 ∧ shr 0x6a09e667f3bcc908 7 = 0x00d413cccfe77992 ∧
    smallSigma0 0x6a09e667f3bcc908 = 0x3dbae91951caa1df ∧ smallSigma1 0x6a09e667f3bcc908 = 0xc8c619e73ee44510 ∧
    bigSigma0 0x6a09e667f3bcc908 = 0x08c4db56aac80c2a ∧ bigSigma1 0x6a09e667f3bcc908 = 0x259a6cc1643336ef := by
  decide

theorem test_rotations :
    rotr 0x0123456789abcdef 14 = 0x37bc048d159e26af ∧ rotr 0x0123456789abcdef 41 = 0xb3c4d5e6f78091a2 ∧
    rotr 0x0123456789abcdef 61 = 0x091a2b3c4d5e6f78 ∧ shr 0xffffffffffffffff 7 = 0x01ffffffffffffff := by decide

theorem test_choose_majority :
    ch 0x510e527fade682d1 0x9b05688c2b3e6c1f 0x1f83d9abfb41bd6b = 0x1f85c98c7b273d3b ∧
    maj 0x6a09e667f3bcc908 0xbb67ae8584caa73b 0x3c6ef372fe94f82b = 0x3a6fe667f69ce92b := by decide

/-! ### The "abc" block of section 4 -/

/-- M[0..15] of "abc" (section 2). -/
def abcBlock : Vector Word 16 := (Vector.replicate 16 0 |>.set 0 0x6162638000000000).set 15 0x18

/-- After reset with "abc" loaded. -/
def abcLoaded : State := { State.reset with M := abcBlock }

/-- The digest words of "abc" (section 4). -/
def abcHash : Vector Word 8 :=
  #v[0xddaf35a193617aba, 0xcc417349ae204131, 0x12e6fa4e89a97ea2, 0x0a9eeee64b55d39a,
     0x2192992a274fc1a8, 0x36ba3c23a3feebbd, 0x454d4423643ce80e, 0x2a9ac94fa54ca49f]

/-- The working variables after round 79 (table 4b). -/
def abcVars : WorkVars :=
  { a := 0x73a54f399fa4b1b2, b := 0x10d9c4c4295599f6, c := 0xd67806db8b148677, d := 0x654ef9abec389ca9
    e := 0xd08446aa79693ed7, f := 0x9bb4d39778c07f9e, g := 0x25c96a7768fb2aa3, h := 0xceb9fc3691ce8326 }

/-- W[64..79] (table 4a), the window at FINALIZE (table 4c). -/
def abcWindow : Vector Word 16 :=
  #v[0x5099c3add79f90ec, 0x5ea81d78e7660bf1, 0xebee6267405ac2a9, 0xb01f21926108a4ab,
     0x786433dd2fe65556, 0xc54a6eaa24a0552c, 0xb3c8f1530bdbaa9e, 0xbb8abfe56f469338,
     0xf63d4265cc1c5a78, 0xbe8355ea73129afb, 0x49e2db8ebdcfbeb5, 0x82269d4a883a3d99,
     0xfdf53df3011f362b, 0x464af5671d71c12e, 0xe449b68198ec611c, 0x92aeeed1a7bcf7d2]

/-- After COMPRESS of "abc" and 80 rounds, the host silent. -/
def abcLast : State := { abcLoaded with wv := abcVars, Wwin := abcWindow, t := 80, busy := true }

/-- The state after an instruction, where it answers one. -/
def after (i : Instr) (s : State) : Option State :=
  match exec i s with
  | .next s' => some s'
  | .fault _ => none
  | .refused _ => none

/-- STATUS after an instruction. -/
def statusAfter (i : Instr) (s : State) : Option Word := (after i s).map State.statusWord

/-- The word an instruction returned to the host. -/
def wordRead (i : Instr) (s : State) : Option Word := (after i s).bind fun s' => s'.reads.head?

/-- "busy" of section 7: an accepted COMPRESS, no engine step yet. -/
def busyState : State := abcLoaded.startCompression

/-- "idle, ERRCODE 2" of section 7. -/
def errState : State := { State.reset with err := true, errcode := 2 }

/-! ### One step at a time: section 7 -/

theorem test_nop : statusAfter (.nop 0xfffffffffffffff) State.reset = some 0x00 ∧
    statusAfter (.nop 0) busyState = some 0x01 := by decide

theorem test_init_clears : statusAfter (.init 0) errState = some 0x00 ∧
    (after (.init 0) { State.reset with H := abcHash, done := true }).map State.H = some initialHash := by decide

theorem test_init_busy : statusAfter (.init 0) busyState = some 0x15 ∧
    statusAfter (.init 0) { busyState with err := true, errcode := 2 } = some 0x25 := by decide

theorem test_compress : statusAfter (.compress 0) errState = some 0x25 ∧
    (after (.compress 0) abcLoaded).map (fun s => s.wv.h) = some 0x5be0cd19137e2179 ∧
    (after (.compress 0) abcLoaded).map State.Wwin = some abcBlock := by decide

theorem test_compress_busy : statusAfter (.compress 0) busyState = some 0x15 := by decide

theorem test_reserved_commands : statusAfter (.rsvdCmd3 0) State.reset = some 0x24 ∧
    statusAfter (.rsvdCmd8to15 9 0) busyState = some 0x25 ∧
    statusAfter (.rsvdCmd4to7 7 0) { busyState with err := true, errcode := 1 } = some 0x15 := by decide

theorem test_status_and_control_reads : wordRead (.rdStatus 0) busyState = some 0x01 ∧
    wordRead (.rdStatus 0) { busyState with err := true, errcode := 1 } = some 0x15 ∧
    wordRead (.rdCtrl 0) busyState = some 0 := by decide

theorem test_hash_reads : wordRead (.rdH 7 0) State.reset = some 0x5be0cd19137e2179 ∧
    wordRead (.rdH 0 0) busyState = some 0x6a09e667f3bcc908 := by decide

theorem test_message_reads : wordRead (.rdM 0 0) abcLoaded = some 0x6162638000000000 ∧
    wordRead (.rdM 15 0) abcLoaded = some 0x18 := by decide

theorem test_reserved_reads : wordRead (.rdRsvd20to38 5 0) State.reset = some 0 ∧
    wordRead (.rdRsvd10to18 2 0) errState = some 0 := by decide

theorem test_ignored_writes : statusAfter (.wrStatus 0xffffffffffffffff) errState = some 0x24 ∧
    after (.wrH 0 0) State.reset = some State.reset ∧
    after (.wrRsvd10to18 2 0xffffffffffffffff) State.reset = some State.reset ∧
    after (.wrRsvd20to38 4 0xffffffffffffffff) State.reset = some State.reset := by decide

theorem test_message_write_while_busy :
    (after (.wrM 3 0x1122334455667788) busyState).map (fun s => (s.M[3], s.Wwin[3], s.M[15], s.statusWord)) =
      some (0x1122334455667788, 0, 0x18, 0x01) := by decide

/-- Round 0 (table 4b). -/
theorem test_round_0 : (after (.round0to63 0) busyState).map (fun s => (s.wv.a, s.wv.e, s.wv.h, s.t)) =
    some (0xf6afceb8bcfcddf5, 0x58cb02347ab51f91, 0x1f83d9abfb41bd6b, 1) := by decide

/-- Round 79 takes row 78 of table 4b to row 79, and puts W[79] over W[63] in the window (tables 4a, 4c). -/
theorem test_round_79 :
    (after (.round64to79 79) { busyState with
        t := 79, Wwin := abcWindow.set 15 0xcc4918b5949206bb
        wv := { a := 0x10d9c4c4295599f6, b := 0xd67806db8b148677, c := 0x654ef9abec389ca9, d := 0xc8960e6be864b916,
                e := 0x9bb4d39778c07f9e, f := 0x25c96a7768fb2aa3, g := 0xceb9fc3691ce8326,
                h := 0x995019a6ff3ba3de } }).map (fun s => (s.wv, s.Wwin, s.t)) = some (abcVars, abcWindow, 80) := by
  decide

theorem test_schedule_word_17 : schedWord abcBlock 17 = 0x00030000000000c0 ∧
    (schedWindow abcBlock 17)[1] = 0x00030000000000c0 ∧ (schedWindow abcBlock 17)[2] = 0 := by decide

/-- FINALIZE: H, STATUS and t after step 81 (sections 4 and 7). -/
theorem test_finalize : (after .finalize abcLast).map (fun s => (s.H, s.statusWord, s.t)) =
    some (abcHash, 0x02, 0) := by decide

theorem test_engine_steps_not_enabled :
    exec .finalize busyState = .fault .engineNotEnabled ∧ exec (.round0to63 1) busyState = .fault .engineNotEnabled ∧
    exec (.round64to79 64) State.reset = .fault .engineNotEnabled := ⟨rfl, rfl, rfl⟩

/-- compress(IV, "abc") is the digest of section 4. -/
theorem test_compress_abc : compressBlock initialHash abcBlock = abcHash := by decide +kernel

/-! ### Host functions: section 2 -/

/-- Table 2a: z for n = 0, 111, 112, 1000; table 2b: k for l = 5, 895, 896. -/
theorem test_padding_counts :
    padZeroBytes 0 = 111 ∧ padZeroBytes 111 = 0 ∧ padZeroBytes 112 = 127 ∧ padZeroBytes 1000 = 7 ∧
    padZeroBits 5 = 890 ∧ padZeroBits 895 = 0 ∧ padZeroBits 896 = 1023 := by decide

/-- "abc" pads to the block of section 2; the parser reads big-endian words. -/
theorem test_parse : parseBlocks (padBytes [0x61, 0x62, 0x63]) = [abcBlock] ∧
    be64 [0x01, 0x23, 0x45, 0x67, 0x89, 0xab, 0xcd, 0xef] = 0x0123456789abcdef := by decide +kernel

/-- Table 2c: the refused lengths. -/
theorem test_padding_refusals : pad [] (-1) = .error .invalidInputLength ∧
    pad [] (2 ^ 128) = .error .invalidInputLength ∧
    pad (bitsOfBytes [0, 0, 0, 0]) 24 = .error .lengthMismatch := by decide +kernel

/-- Programs P1 and P4 of section 9: LOADBLK ends with WR M15, and the transactions are the listed words. -/
theorem test_program_notation :
    (loadBlock abcBlock).length = 16 ∧ (hashProcedure [abcBlock]).length = 28 ∧
    (loadBlock abcBlock).getLast? = some (.access (Access.atOffset true 0xf8 0x18)) ∧
    (Access.atOffset true 0xf8 0x18).transaction = 0x1f80000000000000018 ∧
    readDigest.head? = some (.access (Access.atOffset false 0x40 0)) := by decide

/-! ### Steps -/

/-- The word after `withFetchWord` is run by the next step: WR M3 of section 7, and FINALIZE. -/
theorem test_placed_word_runs :
    step (State.reset.withFetchWord 80 0x1981122334455667788) =
      .next (({ State.reset with patience := 1 } : State).setM 3 0x1122334455667788) ∧
    step (abcLast.withFetchWord 8 0xd0) = .next abcLast.runFinalize.draw := ⟨rfl, rfl⟩

/-- Section 10: a misaligned, a 32-bit, an out-of-window and a second host's access are refused. -/
theorem test_refused_accesses :
    step { State.reset with host := [.access (Access.atOffset true 0x04 0)] } = .refused .misaligned ∧
    step { State.reset with host := [.access { Access.atOffset false 0x08 0 with width := 32 }] } =
      .refused .badWidth ∧
    step { State.reset with host := [.access { Access.atOffset false 0x08 0 with disp := 0x100 }] } =
      .refused .outsideWindow ∧
    step { State.reset with host := [.access { Access.atOffset false 0x08 0 with master := .other }] } =
      .refused .secondHost := ⟨rfl, rfl, rfl, rfl⟩

/-- Section 10: RD STATUS with reset asserted; reset during a compression. -/
theorem test_reset :
    step { State.reset with resetIn := true, host := [.access (Access.atOffset false 0x08 0)] } = .refused .inReset ∧
    step { abcLast with host := [.assertReset], patience := 1 } =
      .next { State.reset with resetIn := true, patience := 1 } := ⟨rfl, rfl⟩

/-- A POLL that reads BUSY = 1 stays the next event. -/
theorem test_poll_repeats :
    step { busyState with host := [.poll], patience := 2 } =
      .next { busyState with host := [.poll], patience := 1, reads := [0x01] } := rfl

/-! ### Witnesses: for each statement with hypotheses, values that meet them -/

/-- The reset state with a list of host events; the next step is the host's. -/
def withHost (l : List HostEvent) : State := { State.reset with host := l }

/-- A host event waiting during a compression, one host turn left. -/
def busyWithHost (l : List HostEvent) : State := { busyState with host := l, patience := 1 }

/-- DecodeOfEncodeIsIdentity: well-formed terms at the ends of their operands' ranges. -/
theorem test_witness_wellFormed :
    (Instr.rsvdCmd4to7 4 0).wf = true ∧ (Instr.rsvdCmd4to7 7 0).wf = true ∧ (Instr.rsvdCmd8to15 8 0).wf = true ∧
    (Instr.rsvdCmd8to15 15 0).wf = true ∧ (Instr.rdRsvd10to18 3 0).wf = true ∧ (Instr.wrRsvd20to38 7 0).wf = true ∧
    (Instr.round0to63 63).wf = true ∧ (Instr.round64to79 64).wf = true ∧ (Instr.round64to79 79).wf = true ∧
    Instr.finalize.wf = true := by decide

/-- DecodedWordIsEncoding: accepted words of both formats. -/
theorem test_witness_decodedWord :
    decode (.host 0x1f80000000000000018) = .ok (.wrM 15 0x18) ∧ decode (.engine 0xd0) = .ok .finalize := by decide

/-- HostDecoderIsTotal: an aligned offset and a misaligned one, at the top of the window. -/
theorem test_witness_hostOffsets :
    (hostOFF 0x1f80000000000000018).toNat % 8 = 0 ∧ (hostOFF 0x0ff0000000000000000).toNat % 8 ≠ 0 := by decide

/-- StepRunsHostInstruction, idle and during a compression. -/
theorem test_witness_hostStep :
    (withHost [.access (Access.atOffset true 0xf8 7)]).hostTurn ∧
    (busyWithHost [.access (Access.atOffset true 0xf8 7)]).hostTurn ∧
    (Access.atOffset true 0xf8 7).master = .host ∧ 0 ≤ (Access.atOffset true 0xf8 7).disp ∧
    (Access.atOffset true 0xf8 7).disp ≤ 0xff ∧ (Access.atOffset true 0xf8 7).width = 64 ∧
    decode (.host (hostWord true (BitVec.ofNat 8 (Access.atOffset true 0xf8 7).disp.toNat) 7)) =
      .ok (.wrM 15 7) := by
  unfold State.hostTurn; decide

/-- StepRunsEngineInstruction: the host's turns used up, or no host event; a round and FINALIZE. -/
theorem test_witness_engineStep :
    (abcLast.resetIn = false ∧ (abcLast.patience = 0 ∨ abcLast.host = []) ∧
      decode (.engine (engineWord abcLast.busy abcLast.t)) = .ok .finalize) ∧
    (busyState.resetIn = false ∧ (({ busyState with host := [.poll] } : State).patience = 0) ∧
      decode (.engine (engineWord busyState.busy busyState.t)) = .ok (.round0to63 0)) := by decide

/-- PollRepeatsWhileBusy, with BUSY = 1 and with BUSY = 0. -/
theorem test_witness_poll :
    ((busyWithHost [.poll]).hostTurn ∧ (busyWithHost [.poll]).busy = true) ∧
    ((withHost [.poll]).hostTurn ∧ (withHost [.poll]).busy = false) := by
  unfold State.hostTurn; decide

/-- IdleBlockKeepsItsState. -/
theorem test_witness_finished : State.reset.finished = true := by decide

/-- AssertingResetTakesEffectAtOnce, during a compression. -/
theorem test_witness_assertReset :
    (busyWithHost [.assertReset]).hostTurn ∧ (busyWithHost [.assertReset]).host = .assertReset :: [] := by
  unfold State.hostTurn; decide

/-- AssertedResetHoldsTheBlock: the step that deasserts reset, and the idle one. -/
theorem test_witness_assertedReset :
    step { abcLast with resetIn := true, host := [.releaseReset] } = .next State.reset ∧
    step { abcLast with resetIn := true } = .next { State.reset with resetIn := true } := ⟨rfl, rfl⟩

/-- TransactionDuringResetRefused: both events. -/
theorem test_witness_transactionDuringReset :
    (({ withHost [.access (Access.atOffset false 0x08 0)] with resetIn := true } : State).resetIn = true) ∧
    (({ withHost [.poll] with resetIn := true } : State).host = .poll :: []) := by decide

/-- AccessOutsideTheRulesRefused: an address for each clause, at the ends of the window. -/
theorem test_witness_accessOutside :
    (Config.base ≤ Config.base + 0xff ∧ Config.base + 0xff ≤ Config.base + 0xff ∧ (Config.base + 0xff) % 8 ≠ 0) ∧
    (Config.base % 8 = 0 ∧ (32 : Nat) ≠ 64) ∧
    (Config.base + 0xff < Config.base + 0x100 ∧ (Config.base + 0x100) % 8 = 0) ∧
    (withHost [.access (Access.atAddress .host (Config.base + 0x100) 64 true 0)]).hostTurn := by
  refine ⟨?_, ?_, ?_, rfl, .inl rfl⟩ <;> unfold Config.base <;> omega

/-- AlignedAccessIsPerformed: the first and the last slot, idle and during a compression. -/
theorem test_witness_alignedAccess :
    (Config.base ≤ Config.base + 0xf8 ∧ Config.base + 0xf8 ≤ Config.base + 0xff ∧ (Config.base + 0xf8) % 8 = 0) ∧
    Config.base % 8 = 0 ∧
    (withHost [.access (Access.atAddress .host (Config.base + 0xf8) 64 true 0)]).hostTurn ∧
    (busyWithHost [.access (Access.atAddress .host Config.base 64 false 0)]).hostTurn := by
  refine ⟨?_, ?_, ⟨rfl, .inl rfl⟩, rfl, .inr Nat.one_ne_zero⟩ <;> unfold Config.base <;> omega

/-- SecondHostRefused. -/
theorem test_witness_secondHost :
    (withHost [.access { Access.atOffset false 0x08 0 with master := .other }]).hostTurn ∧
    ({ Access.atOffset false 0x08 0 with master := .other } : Access).master = .other := by
  unfold State.hostTurn; decide

/-- ControlWriteDispatch: a data word for each branch, at the ends of the codes. -/
theorem test_witness_controlDispatch :
    3 ≤ (0x3 : Word).toNat % 16 ∧ 3 ≤ (0xf : Word).toNat % 16 ∧ (0x10 : Word).toNat % 16 = 0 ∧
    (0x1 : Word).toNat % 16 = 1 ∧ (0x2 : Word).toNat % 16 = 2 := by decide

/-- NopChangesNothing: a data word whose low four bits are 0. -/
theorem test_witness_nop : (0xfffffffffffffff0 : Word).toNat % 16 = 0 := by decide

/-- InitStartsANewMessage: an INIT that clears ERR and one after it. -/
theorem test_witness_init : errState.busy = false ∧ exec (.init 0) errState = .next errState.startMessage ∧
    errState.err = true ∧ errState.startMessage.err = false := ⟨rfl, rfl, rfl, rfl⟩

/-- ReservedCommandRecordsItsError: codes 3, 4, 7, 8 and 15. -/
theorem test_witness_reserved : ∀ c ∈ ([3, 4, 7, 8, 15] : List (BitVec 4)), 3 ≤ c.toNat := by decide

/-- ControlAndReservedAccesses: both rows, at the ends of their slots. -/
theorem test_witness_slots :
    (2 ≤ (2 : BitVec 5).toNat ∧ (3 : BitVec 5).toNat ≤ 3) ∧ (4 ≤ (4 : BitVec 5).toNat ∧ (7 : BitVec 5).toNat ≤ 7) := by
  decide

/-- InitStartsANewMessage and CompressLoadsAndStarts: BUSY = 0; CommandWhileBusyDropped: BUSY = 1. -/
theorem test_witness_commands : errState.busy = false ∧ abcLoaded.busy = false ∧ busyState.busy = true := by decide

/-- SetErrorKeepsTheFirstCode: both cases of the first clause, both callers of the second. -/
theorem test_witness_setError :
    (exec (.rsvdCmd8to15 15 0) busyState = .next (busyState.setError 2) ∧ busyState.err = false) ∧
    exec (.compress 0) busyState = .next (busyState.setError 1) ∧ (busyState.setError 1).err = true ∧
    (errState.err = true ∧ errState.setError 1 = errState) ∧
    (State.reset.err = false ∧ State.reset.setError 1 = { State.reset with err := true, errcode := 1 }) := by
  refine ⟨⟨rfl, rfl⟩, rfl, rfl, ⟨rfl, rfl⟩, rfl, rfl⟩

/-- HashReadReturnsTheWord: an instruction while BUSY = 1, and INIT with BUSY = 0. -/
theorem test_witness_hashRead :
    busyState.busy = true ∧ exec (.wrM 0 1) busyState = .next (busyState.setM 0 1) ∧ errState.busy = false ∧
    exec (.init 0) errState = .next errState.startMessage := ⟨rfl, rfl, rfl, rfl⟩

/-- ReadsFollowTheRegisterMap: an offset for each clause, at the ends of its range. -/
theorem test_witness_readOffsets :
    (0x08 : BitVec 8).toNat % 8 = 0 ∧ 0x10 ≤ (0x10 : BitVec 8).toNat ∧ (0x38 : BitVec 8).toNat ≤ 0x38 ∧
    (0x40 : BitVec 8).toNat = 0x40 + 8 * (0 : Fin 8).val ∧ (0x78 : BitVec 8).toNat = 0x40 + 8 * (7 : Fin 8).val ∧
    (0x80 : BitVec 8).toNat = 0x80 + 8 * (0 : Fin 16).val ∧
    (0xf8 : BitVec 8).toNat = 0x80 + 8 * (15 : Fin 16).val := by decide

/-- WritesFollowTheRegisterMap: the first and last offset below the buffer, the first and last word of it. -/
theorem test_witness_writeOffsets :
    ((0x08 : BitVec 8).toNat % 8 = 0 ∧ (0x08 : BitVec 8).toNat ≠ 0) ∧ (0x78 : BitVec 8).toNat % 8 = 0 ∧
    (0x80 : BitVec 8).toNat % 8 = 0 ∧ (0xf8 : BitVec 8).toNat % 8 = 0 := by decide

/-- MessageReadReturnsTheLastWrite: a write of the word read and of another one. -/
theorem test_witness_messageRead :
    exec (.wrM 15 9) abcLoaded = .next (abcLoaded.setM 15 9) ∧
    wordRead (.rdM 15 0) (abcLoaded.setM 15 9) = some 9 ∧ wordRead (.rdM 0 0) (abcLoaded.setM 15 9) =
      some 0x6162638000000000 := ⟨rfl, by decide, by decide⟩

/-- RoundStepMixesTheWorkingVariables: both rows, at the ends of their ranges. -/
theorem test_witness_round :
    busyState.resetIn = false ∧ busyState.busy = true ∧
    (∀ n ∈ [0, 63], (({ busyState with t := n } : State).t.toNat ≤ 63)) ∧
    (∀ n ∈ [64, 79], 64 ≤ (({ busyState with t := n } : State).t.toNat) ∧
      (({ busyState with t := n } : State).t.toNat ≤ 79)) := by decide

/-- ScheduleWordStep: t = 15 for the first two clauses, t = 16 and 79 for the third. -/
theorem test_witness_scheduleStep :
    (15 < 80 ∧ (15 : Fin 16).val = 15) ∧
    ((16 ≤ 16 ∧ 16 < 80) ∧ (14 : Fin 16).val = (16 - 2) % 16 ∧ (9 : Fin 16).val = (16 - 7) % 16 ∧
      (1 : Fin 16).val = (16 - 15) % 16 ∧ (0 : Fin 16).val = 16 % 16) ∧
    ((16 ≤ 79 ∧ 79 < 80) ∧ (13 : Fin 16).val = (79 - 2) % 16 ∧ (8 : Fin 16).val = (79 - 7) % 16 ∧
      (0 : Fin 16).val = (79 - 15) % 16 ∧ (15 : Fin 16).val = 79 % 16) := by decide

/-- FinalizeAddsIntoTheHash. -/
theorem test_witness_finalize : abcLast.resetIn = false ∧ abcLast.busy = true ∧ abcLast.t = 80 := by decide

/-- EngineStepsStopWhereNotEnabled: reset asserted, BUSY = 0, another counter, a number of the other row. -/
theorem test_witness_notEnabled :
    ¬ (({ busyState with resetIn := true } : State).resetIn = false ∧ busyState.busy = true ∧
      busyState.t = 0 ∧ (0 : BitVec 7).toNat ≤ 63) ∧
    ¬ (({ busyState with t := 63 } : State).t = 63 ∧ 64 ≤ (63 : BitVec 7).toNat ∧ (63 : BitVec 7).toNat ≤ 79) ∧
    ¬ (State.reset.resetIn = false ∧ State.reset.busy = true ∧ State.reset.t = 80) := by decide

/-- RotationMovesEveryBit and ShiftIsLogical: n = 1 and n = 63, bits 0 and 63. -/
theorem test_witness_rotation :
    (0 < 1 ∧ 63 < 64) ∧ (rotr 1 1).getLsbD 63 = true ∧ (rotr 1 63).getLsbD 1 = true ∧
    (shr 0xffffffffffffffff 1).getLsbD 63 = false ∧ shr 0x8000000000000000 63 = 1 := by decide

/-- SigmaFunctionsBitByBit and ChooseAndMajorityBitByBit: bits 0 and 63. -/
theorem test_witness_bits :
    (0 < 64 ∧ 63 < 64) ∧ (smallSigma0 1).getLsbD 63 = true ∧ (smallSigma0 1).getLsbD 0 = false ∧
    (ch 0x8000000000000000 0 0xffffffffffffffff).getLsbD 63 = false ∧
    (maj 0x8000000000000000 0 0xffffffffffffffff).getLsbD 63 = true := by decide

/-- ScheduleRecurrence: t = 15 for the first clause, t = 16, 17 and 79 for the second (table 4a). -/
theorem test_witness_schedule :
    (15 : Fin 16).val = 15 ∧ 15 < 80 ∧ 16 ≤ 16 ∧ 16 ≤ 79 ∧ 79 < 80 ∧ scheduleWord abcBlock 15 = 0x18 ∧
    scheduleWord abcBlock 16 = 0x6162638000000000 ∧ scheduleWord abcBlock 17 = 0x00030000000000c0 ∧
    scheduleWord abcBlock 79 = 0x92aeeed1a7bcf7d2 := by decide +kernel

/-- WindowTracksTheSchedule: the window at round 0, and the window of table 4c at FINALIZE, which round 79 leaves. -/
theorem test_witness_window : WindowHolds abcBlock 0 abcBlock ∧ WindowHolds abcBlock 80 abcWindow := by
  have h0 : ∀ j : Fin 16, abcBlock[j] = scheduleWord abcBlock j.val := by decide +kernel
  have h80 : ∀ j : Fin 16, abcWindow[j] = scheduleWord abcBlock (64 + j.val) := by decide +kernel
  refine ⟨fun j n h1 h2 h3 => ?_, fun j n h1 h2 h3 => ?_⟩
  · rw [h0 j]; congr 1; omega
  · rw [h80 j]; congr 1; omega

/-- CompressionSurvivesEveryStep and FirstIdleStateHoldsTheResult: a compression just accepted. -/
theorem test_witness_compressing : busyState.Compressing initialHash abcBlock :=
  ⟨rfl, rfl, by decide, rfl, rfl, test_witness_window.1⟩

/-- The same at FINALIZE: the working variables of table 4b are those of the 80 rounds. -/
theorem test_witness_compressing_last : abcLast.Compressing initialHash abcBlock :=
  ⟨rfl, rfl, by decide, rfl, by decide +kernel, test_witness_window.2⟩

/-- CompressionSurvivesEveryStep: steps that answer a next state, one for each outcome. -/
theorem test_witness_compressing_steps :
    step busyState = .next busyState.runRound.draw ∧ step abcLast = .next abcLast.runFinalize.draw ∧
    ∃ s', step (busyWithHost [.assertReset]) = .next s' ∧ s'.resetIn = true := ⟨rfl, rfl, _, rfl, rfl⟩

/-- CompressionTakesEightyOneSteps. -/
theorem test_witness_eightyOne :
    abcLoaded.resetIn = false ∧ abcLoaded.busy = false ∧ abcLoaded.host = [] ∧
    exec (.compress 0) abcLoaded = .next busyState := ⟨rfl, rfl, rfl, rfl⟩

/-- FirstIdleStateHoldsTheResult: one step from the state at FINALIZE. -/
theorem test_witness_firstIdle :
    (∀ ev ∈ abcLast.host, ev ≠ .assertReset) ∧
    (∀ k sk, k < 1 → Host.Core.run core k abcLast = .next sk → sk.busy = true) ∧
    Host.Core.run core 1 abcLast = .next abcLast.runFinalize.draw ∧ abcLast.runFinalize.draw.busy = false := by
  refine ⟨by decide, fun k sk hk h => ?_, rfl, rfl⟩
  obtain rfl : k = 0 := by omega
  cases h; rfl

/-- EngineIsWeaklyFair, with host events waiting. -/
theorem test_witness_engineWaits : (busyWithHost [.poll]).engineFetch.isSome = true := by decide

/-- StepKeepsTheInvariant and StatusHasEightValues: a busy state with an error meets the invariant, and steps. -/
theorem test_witness_invariant :
    ({ busyState with err := true, errcode := 1 } : State).Inv ∧
    ∃ s', step { busyState with err := true, errcode := 1 } = .next s' :=
  ⟨⟨by decide, by decide, by decide, by decide, by decide, by decide, by decide⟩, _, rfl⟩

/-- HashWrittenOnlyByInitAndFinalize: a next state for each of the three, and steps of each kind. -/
theorem test_witness_hashWriters :
    exec (.nop 0) abcLoaded = .next abcLoaded ∧ exec (.init 0) abcLoaded = .next abcLoaded.startMessage ∧
    exec .finalize abcLast = .next abcLast.runFinalize ∧ step abcLast = .next abcLast.runFinalize.draw ∧
    step busyState = .next busyState.runRound.draw ∧
    step { abcLast with resetIn := true } = .next { State.reset with resetIn := true } :=
  ⟨rfl, rfl, rfl, rfl, rfl, rfl⟩

/-- RegistersHaveNamedWriters: a next state of each named writer. -/
theorem test_witness_registerWriters :
    exec (.wrM 0 1) abcLoaded = .next (abcLoaded.setM 0 1) ∧ exec (.compress 0) abcLoaded = .next busyState ∧
    exec (.round0to63 0) busyState = .next busyState.runRound ∧
    exec (.round64to79 79) { busyState with t := 79 } = .next ({ busyState with t := 79 } : State).runRound :=
  ⟨rfl, rfl, rfl, rfl⟩

/-- BusyAndDoneHaveNamedWriters: a next state for each of the four clauses. -/
theorem test_witness_busyDone :
    (abcLoaded.busy = false ∧ after (.compress 0) abcLoaded = some busyState ∧ busyState.busy = true) ∧
    (abcLast.busy = true ∧ abcLast.done = false ∧
      (after .finalize abcLast).map (fun s => (s.busy, s.done)) = some (false, true)) ∧
    (after (.init 0) { abcLoaded with done := true }).map State.done = some false := by decide

/-- ErrorRecordIsSticky: an instruction that keeps the record, and INIT, which clears it. -/
theorem test_witness_sticky :
    errState.err = true ∧ (after (.compress 0) errState).map (fun s => (s.err, s.errcode)) = some (true, 2) ∧
    (after (.init 0) errState).map (fun s => (s.err, s.errcode)) = some (false, 0) := by decide

/-- HostCannotDisturbACompression. -/
theorem test_witness_disturb :
    (Instr.wrM 3 1).isHost = true ∧ busyState.busy = true ∧
    exec (.wrM 3 1) busyState = .next (busyState.setM 3 1) := ⟨rfl, rfl, rfl⟩

/-- HiddenStateStaysHidden: two states that differ in a..h, Wwin and t only. -/
theorem test_witness_hidden :
    (Instr.rdStatus 0).isHost = true ∧ abcLast.hostView = busyState.hostView ∧ abcLast ≠ busyState ∧
    exec (.rdStatus 0) abcLast = .next (abcLast.answer 0x01) ∧
    exec (.rdStatus 0) busyState = .next (busyState.answer 0x01) := by
  refine ⟨rfl, by decide, by decide, rfl, rfl⟩

/-- HostInstructionsAlwaysComplete. -/
theorem test_witness_host : (Instr.init 0).isHost = true := rfl

/-- PaddingHasTheSpecifiedShape: −1 and 2^128, 24 for the empty message, and the empty message itself. -/
theorem test_witness_padding :
    ((-1 : Int) < 0) ∧ ((2 : Int) ^ 128 ≤ 2 ^ 128) ∧
    ((0 : Int) ≤ 24 ∧ (24 : Int) < 2 ^ 128 ∧ (24 : Int) ≠ ([] : List Bool).length) ∧
    ((0 : Int) < 2 ^ 128 ∧ (0 : Int) = ([] : List Bool).length) := by decide

/-- ByteFormOfPadding: "abc". -/
theorem test_witness_byteForm : 8 * ([0x61, 0x62, 0x63] : List Byte).length < 2 ^ 128 := by decide

end Sys2Proof.Tests
end

/-! ## Bytes of a word (R12) -/

namespace Sys2Proof.Machine

@[simp] theorem natBytes_length (n x : Nat) : (natBytes n x).length = n := by
  simp [natBytes]

/-- The least significant byte comes last. -/
theorem natBytes_succ (n x : Nat) :
    natBytes (n + 1) x = natBytes n (x / 256) ++ [BitVec.ofNat 8 x] := by
  have byte_div : ∀ k < n, x / 2 ^ (8 * (n - k)) = x / 256 / 2 ^ (8 * (n - 1 - k)) := by
    intro k hk
    have hexp : 8 * (n - k) = 8 + 8 * (n - 1 - k) := by omega
    rw [hexp, Nat.pow_add, Nat.div_div_eq_div_mul]
  simpa [natBytes, List.range_succ] using fun k hk => congrArg (BitVec.ofNat 8) (byte_div k hk)

/-- The most significant byte comes first. -/
theorem natBytes_succ_head? (n x : Nat) :
    (natBytes (n + 1) x).head? = some (BitVec.ofNat 8 (x / 2 ^ (8 * n))) := by
  simp [natBytes, List.head?_range]

theorem be64_concat (bytes : List Byte) (b : Byte) :
    be64 (bytes ++ [b]) = be64 bytes * 256 + b.setWidth 64 := by
  simp [be64]

/-- BE64 reads back, modulo 2^64, the number that `natBytes` wrote. -/
theorem be64_natBytes (n x : Nat) : be64 (natBytes n x) = BitVec.ofNat 64 (x % 2 ^ (8 * n)) := by
  induction n generalizing x with
  | zero => simp [natBytes, be64, Nat.mod_one]
  | succ n ih =>
    have hsplit : x % 2 ^ (8 * (n + 1)) = x % 256 + 256 * (x / 256 % 2 ^ (8 * n)) := by
      rw [Nat.mul_succ, Nat.add_comm, Nat.pow_add, Nat.mod_mul]
    have hbyte : (BitVec.ofNat 8 x).setWidth 64 = BitVec.ofNat 64 (x % 256) := by
      apply BitVec.eq_of_toNat_eq
      simp
    rw [natBytes_succ, be64_concat, ih, hbyte, hsplit, BitVec.ofNat_add, BitVec.ofNat_mul,
      BitVec.add_comm, BitVec.mul_comm]
    rfl

@[simp] theorem bytes64_length (w : Word) : (bytes64 w).length = 8 := natBytes_length 8 w.toNat

@[simp] theorem be64_bytes64 (w : Word) : be64 (bytes64 w) = w := by
  rw [bytes64, be64_natBytes, Nat.mod_eq_of_lt w.isLt, BitVec.ofNat_toNat, BitVec.setWidth_eq]

theorem bytes64_head? (w : Word) : (bytes64 w).head? = some (w.extractLsb' 56 8) := by
  rw [bytes64, natBytes_succ_head?, BitVec.extractLsb', Nat.shiftRight_eq_div_pow]

/-- Settles O58: BE64 undoes `natBytes` modulo 2^64, and a word is below 2^64. -/
theorem wordBytesAreBigEndian : Obligations.WordBytesAreBigEndian :=
  fun w => ⟨be64_bytes64 w, bytes64_length w, bytes64_head? w⟩

end Sys2Proof.Machine

/-! ## The state's values after reset (R31, R32) -/

namespace Sys2Proof.Machine

/-- Settles O10: the reset state's fields, one by one. -/
theorem resetLeavesTheSpecifiedValues : Obligations.ResetLeavesTheSpecifiedValues :=
  ⟨rfl, rfl, fun j => Vector.getElem_replicate j.isLt, fun j => Vector.getElem_replicate j.isLt,
    rfl, rfl, rfl, rfl, rfl⟩

/-- A block that holds its reset values meets R32, whatever the level of the reset input. -/
theorem State.inv_of_resetBlock_eq {s : State} (h : s.resetBlock = s) : s.Inv := by
  have ht : s.t = 0 := congrArg State.t h.symm
  have hbusy : s.busy = false := congrArg State.busy h.symm
  have hdone : s.done = false := congrArg State.done h.symm
  have herr : s.err = false := congrArg State.err h.symm
  have hcode : s.errcode = 0 := congrArg State.errcode h.symm
  constructor <;> simp [ht, hbusy, hdone, herr, hcode, h]

/-- Settles O47: the reset state is its own reset block. -/
theorem invariantHoldsAtReset : Obligations.InvariantHoldsAtReset := State.inv_of_resetBlock_eq rfl

end Sys2Proof.Machine

/-! ## What one instruction can do -/

namespace Sys2Proof.Machine

/-- The effects an instruction that answers a next state can have on `s`, each with its guard and the instructions
that can have it. -/
inductive Effect (s : State) : Instr → State → Prop where
  /-- NOP and the ignored writes (R171, R178, R180, R183). -/
  | ignored (i : Instr) : Effect s i s
  /-- A read (R176, R177, R179, R181, R183). -/
  | answered (i : Instr) (w : Word) : Effect s i (s.answer w)
  /-- WR_M (R182). -/
  | messageWritten (j : Fin 16) (v : Word) : Effect s (.wrM j v) (s.setM j v)
  /-- INIT with BUSY = 0 (R172). -/
  | initAccepted (ign : BitVec 60) (idle : s.busy = false) : Effect s (.init ign) s.startMessage
  /-- COMPRESS with BUSY = 0 (R173). -/
  | compressAccepted (ign : BitVec 60) (idle : s.busy = false) : Effect s (.compress ign) s.startCompression
  /-- INIT or COMPRESS with BUSY = 1 (R175). -/
  | dropped (i : Instr) (busy : s.busy = true) : Effect s i (s.setError cmdWhileBusy)
  /-- A reserved command (R174). -/
  | reserved (i : Instr) : Effect s i (s.setError reservedCmd)
  /-- ROUND where the engine stands at it (R147). -/
  | round (i : Instr) (isRound : ∃ t, i = .round0to63 t ∨ i = .round64to79 t) (busy : s.busy = true)
      (counter : s.t.toNat ≤ 79) : Effect s i s.runRound
  /-- FINALIZE where the engine stands at it (R148). -/
  | finalized (busy : s.busy = true) (counter : s.t = 80) : Effect s .finalize s.runFinalize

/-- An instruction that answers a next state has one of the effects. -/
theorem effect_of_exec {i : Instr} {s s' : State} (h : exec i s = .next s') : Effect s i s' := by
  cases i with
  | nop | wrStatus | wrH | wrRsvd10to18 | wrRsvd20to38 => cases h; exact .ignored _
  | rdCtrl | rdStatus | rdH | rdM | rdRsvd10to18 | rdRsvd20to38 => cases h; exact .answered _ _
  | rsvdCmd3 | rsvdCmd4to7 | rsvdCmd8to15 => cases h; exact .reserved _
  | wrM j v => cases h; exact .messageWritten j v
  | init ign =>
    cases hb : s.busy <;> simp only [exec_init, hb] at h <;> cases h
    · exact .initAccepted ign hb
    · exact .dropped _ hb
  | compress ign =>
    cases hb : s.busy <;> simp only [exec_compress, hb] at h <;> cases h
    · exact .compressAccepted ign hb
    · exact .dropped _ hb
  | round0to63 t =>
    obtain ⟨hat, ht, rfl⟩ := exec_round0to63_eq_next.1 h
    obtain ⟨-, hb, rfl⟩ := (s.engineAt_iff t).1 hat
    exact .round _ ⟨_, .inl rfl⟩ hb (by omega)
  | round64to79 t =>
    obtain ⟨hat, ⟨-, ht⟩, rfl⟩ := exec_round64to79_eq_next.1 h
    obtain ⟨-, hb, rfl⟩ := (s.engineAt_iff t).1 hat
    exact .round _ ⟨_, .inr rfl⟩ hb ht
  | finalize =>
    obtain ⟨hat, rfl⟩ := exec_finalize_eq_next.1 h
    obtain ⟨-, hb, ht⟩ := (s.engineAt_iff 80).1 hat
    exact .finalized hb ht

/-- No instruction moves the reset input (R220). -/
theorem Effect.resetIn {i : Instr} {s s' : State} (h : Effect s i s') : s'.resetIn = s.resetIn := by
  cases h <;> rfl

/-- Settles O51, effect by effect. -/
theorem registersHaveNamedWriters : Obligations.RegistersHaveNamedWriters := by
  intro i s s' h
  cases effect_of_exec h with
  | ignored | answered | dropped | reserved => exact ⟨.inl rfl, .inl ⟨rfl, rfl⟩, .inl rfl⟩
  | messageWritten j v => exact ⟨.inr ⟨j, v, rfl⟩, .inl ⟨rfl, rfl⟩, .inl rfl⟩
  | initAccepted => exact ⟨.inl rfl, .inl ⟨rfl, rfl⟩, .inl rfl⟩
  | compressAccepted ign idle =>
    exact ⟨.inl rfl, .inr (.inl ⟨⟨ign, rfl⟩, idle⟩), .inr (.inl ⟨⟨ign, rfl⟩, idle⟩)⟩
  | round _ isRound => exact ⟨.inl rfl, .inr (.inr isRound), .inr (.inr (.inl isRound))⟩
  | finalized => exact ⟨.inl rfl, .inl ⟨rfl, rfl⟩, .inr (.inr (.inr rfl))⟩

/-- Settles O52, effect by effect: the flags an effect leaves cannot have changed. -/
theorem busyAndDoneHaveNamedWriters : Obligations.BusyAndDoneHaveNamedWriters := by
  intro i s s' h
  cases effect_of_exec h with
  | ignored | answered | messageWritten | dropped | reserved | round => simp +contextual
  | initAccepted _ idle => simp +contextual [idle]
  | compressAccepted _ idle => simp [idle]
  | finalized => simp

/-- Settles O53: `setError` keeps the first code, and only INIT with BUSY = 0 writes the record otherwise. -/
theorem errorRecordIsSticky : Obligations.ErrorRecordIsSticky := by
  intro i s s' herr h
  cases effect_of_exec h with
  | ignored | answered | messageWritten | compressAccepted | round | finalized => exact .inl ⟨herr, rfl⟩
  | dropped | reserved => exact .inl ⟨rfl, if_pos herr⟩
  | initAccepted ign idle => exact .inr ⟨⟨ign, rfl⟩, idle, rfl, rfl⟩

end Sys2Proof.Machine

/-! ## The invariant of R32 -/

namespace Sys2Proof.Machine

/-- Out of reset the invariant looks at BUSY, t, DONE, ERR and ERRCODE alone. -/
theorem State.Inv.congr {s s' : State} (hs : s.Inv) (hr : s'.resetIn = false) (hbusy : s'.busy = s.busy)
    (ht : s'.t = s.t) (hdone : s'.done = s.done) (herr : s'.err = s.err) (hcode : s'.errcode = s.errcode) :
    s'.Inv where
  idle := by rw [hbusy, ht]; exact hs.idle
  counter := by rw [hbusy, ht]; exact hs.counter
  finished := by rw [hdone, hbusy]; exact hs.finished
  noError := by rw [herr, hcode]; exact hs.noError
  errorCode := by rw [herr, hcode]; exact hs.errorCode
  busyError := by rw [hcode, hbusy, hdone]; exact hs.busyError
  held := by simp [hr]

/-- Recording an error keeps the invariant where code 1 is recorded only while BUSY = 1. -/
theorem State.Inv.setError {s : State} (hs : s.Inv) (hr : s.resetIn = false) {code : BitVec 4}
    (hcode : code = 1 ∧ s.busy = true ∨ code = 2) : (s.setError code).Inv where
  idle := hs.idle
  counter := hs.counter
  finished := hs.finished
  noError := by simp
  errorCode := by
    intro _
    cases herr : s.err with
    | true => simpa [herr] using hs.errorCode herr
    | false => obtain ⟨rfl, -⟩ | rfl := hcode <;> simp [herr]
  busyError := by
    cases herr : s.err with
    | true => simpa [herr] using hs.busyError
    | false =>
      obtain ⟨rfl, hb⟩ | rfl := hcode
      · simp [hb]
      · simp [herr]
  held := by simp [hr]

theorem State.Inv.startMessage {s : State} (hs : s.Inv) (hr : s.resetIn = false) : s.startMessage.Inv where
  idle := hs.idle
  counter := hs.counter
  finished := by simp
  noError := by simp
  errorCode := by simp
  busyError := by simp
  held := by simp [hr]

theorem State.Inv.startCompression {s : State} (hs : s.Inv) (hr : s.resetIn = false) : s.startCompression.Inv where
  idle := by simp
  counter := by simp
  finished := by simp
  noError := hs.noError
  errorCode := hs.errorCode
  busyError := by simp
  held := by simp [hr]

/-- A round that starts at t ≤ 79 ends at t ≤ 80. -/
theorem State.Inv.runRound {s : State} (hs : s.Inv) (hr : s.resetIn = false) (hb : s.busy = true)
    (ht : s.t.toNat ≤ 79) : s.runRound.Inv where
  idle := by simp [hb]
  counter := by
    intro _
    rw [State.runRound_t]
    bv_omega
  finished := hs.finished
  noError := hs.noError
  errorCode := hs.errorCode
  busyError := hs.busyError
  held := by simp [hr]

theorem State.Inv.runFinalize {s : State} (hs : s.Inv) (hr : s.resetIn = false) : s.runFinalize.Inv where
  idle := by simp
  counter := by simp
  finished := by simp
  noError := hs.noError
  errorCode := hs.errorCode
  busyError := by simp
  held := by simp [hr]

/-- Every instruction keeps the invariant. -/
theorem State.Inv.effect {i : Instr} {s s' : State} (hs : s.Inv) (hr : s.resetIn = false) (h : Effect s i s') :
    s'.Inv := by
  cases h with
  | ignored => exact hs
  | answered | messageWritten => exact hs.congr hr rfl rfl rfl rfl rfl
  | initAccepted => exact hs.startMessage hr
  | compressAccepted => exact hs.startCompression hr
  | dropped _ busy => exact hs.setError hr (.inl ⟨rfl, busy⟩)
  | reserved => exact hs.setError hr (.inr rfl)
  | round _ _ busy counter => exact hs.runRound hr busy counter
  | finalized => exact hs.runFinalize hr

theorem State.Inv.draw {s : State} (hs : s.Inv) (hr : s.resetIn = false) : s.draw.Inv :=
  hs.congr hr rfl rfl rfl rfl rfl

/-- The bookkeeping after a host step leaves what the invariant looks at. -/
theorem State.Inv.passTurn {s1 : State} (hs : s1.Inv) (hr : s1.resetIn = false) (s : State)
    (rest : List HostEvent) : (s.passTurn s1 rest).Inv :=
  hs.congr (by simpa using hr) (by simp) (by simp) (by simp) (by simp) (by simp)

theorem State.Inv.hostStep {ev : HostEvent} {rest : List HostEvent} {s s' : State} (hs : s.Inv)
    (hr : s.resetIn = false) (h : hostStep ev rest s = .next s') : s'.Inv := by
  obtain ⟨i, s1, rest', -, hexec, rfl, -⟩ | ⟨-, rfl⟩ | ⟨-, rfl⟩ := hostStep_cases h
  · have he := effect_of_exec hexec
    exact (hs.effect hr he).passTurn (he.resetIn.trans hr) s rest'
  · exact State.inv_of_resetBlock_eq rfl
  · exact hs.passTurn hr s rest

/-- The engine's waiting step keeps the invariant. -/
theorem State.Inv.engineStep {s : State} (hs : s.Inv) (hf : s.engineFetch.isSome = true) :
    (if s.t.toNat = 80 then s.runFinalize else s.runRound).draw.Inv := by
  obtain ⟨hr, -, -⟩ := s.engineFetch_isSome.1 hf
  obtain ⟨i, hi⟩ := Option.isSome_iff_exists.1 hf
  have he := effect_of_exec (exec_of_engineFetch hi)
  exact (hs.effect hr he).draw (he.resetIn.trans hr)

/-- Settles O48: a step under reset leaves the reset values, the engine and the host run one instruction each, and an
idle step changes nothing. -/
theorem stepKeepsTheInvariant : Obligations.StepKeepsTheInvariant := by
  intro s s' hs h
  obtain ⟨-, ⟨-, rfl⟩ | ⟨rest, ⟨-, rfl⟩ | ⟨-, rfl⟩⟩⟩ | ⟨⟨hf, -⟩, rfl⟩ | ⟨⟨hr, -⟩, ev, rest, -, hstep⟩ | ⟨-, -, -, rfl⟩ :=
    step_cases h
  · exact State.inv_of_resetBlock_eq rfl
  · exact State.inv_of_resetBlock_eq rfl
  · exact State.inv_of_resetBlock_eq rfl
  · exact hs.engineStep hf
  · exact hs.hostStep hr hstep
  · exact hs

end Sys2Proof.Machine

/-! ## The hidden state: a..h, Wwin and t (R34) -/

namespace Sys2Proof.Machine

variable (s : State)

@[simp] theorem State.hostView_H : s.hostView.H = s.H := rfl
@[simp] theorem State.hostView_M : s.hostView.M = s.M := rfl
@[simp] theorem State.hostView_busy : s.hostView.busy = s.busy := rfl
@[simp] theorem State.hostView_statusWord : s.hostView.statusWord = s.statusWord := rfl
@[simp] theorem State.hostView_hostView : s.hostView.hostView = s.hostView := rfl
@[simp] theorem State.hostView_answer (w : Word) : (s.answer w).hostView = s.hostView.answer w := rfl
@[simp] theorem State.hostView_setM (j : Fin 16) (v : Word) : (s.setM j v).hostView = s.hostView.setM j v := rfl
@[simp] theorem State.hostView_startMessage : s.startMessage.hostView = s.hostView.startMessage := rfl
@[simp] theorem State.hostView_setError (code : BitVec 4) :
    (s.setError code).hostView = s.hostView.setError code := rfl

/-- COMPRESS overwrites the hidden state, so it starts the same compression from the view. -/
theorem State.hostView_startCompression :
    s.startCompression.hostView = s.hostView.startCompression.hostView := rfl

/-- A host instruction runs on the host's view as on the state itself. -/
theorem hostView_exec {i : Instr} (hi : i.isHost = true) :
    onNext (exec i s) State.hostView = onNext (exec i s.hostView) State.hostView := by
  cases i with
  | round0to63 | round64to79 | finalize => cases hi
  | init => cases hb : s.busy <;> simp [hb]
  | compress => cases hb : s.busy <;> simp [hb, s.hostView_startCompression]
  | _ => simp

/-- Settles O55: the view after a host instruction is a function of the view before it. -/
theorem hiddenStateStaysHidden : Obligations.HiddenStateStaysHidden := by
  intro i s1 s2 s1' s2' hi hview h1 h2
  have : onNext (exec i s1) State.hostView = onNext (exec i s2) State.hostView := by
    rw [hostView_exec s1 hi, hview, ← hostView_exec s2 hi]
  rw [h1, h2] at this
  exact Host.Outcome.next.inj this

end Sys2Proof.Machine

/-! ## Which accesses are performed (R50, R51, R57) -/

namespace Sys2Proof.Machine

/-! ### A host transaction decodes exactly at a multiple of 8 (R79) -/

theorem decode_host_of_aligned {T : BitVec 73} (h : (hostOFF T).toNat % 8 = 0) :
    ∃ i, decode (.host T) = .ok i := by
  have hal : offAligned (hostOFF T) = true := (offAligned_iff _).2 h
  cases hwe : hostWE T <;> simp [decode, decodeHost, hal, hwe]

theorem decode_host_of_misaligned {T : BitVec 73} (h : (hostOFF T).toNat % 8 ≠ 0) :
    decode (.host T) = .error .misaligned := by
  have hal : ¬ offAligned (hostOFF T) = true := mt (offAligned_iff _).1 h
  simp [decode, decodeHost, hal]

/-! ### What an access of the host is fetched as -/

theorem Access.inWindow_iff {x : Access} : x.inWindow = true ↔ 0 ≤ x.disp ∧ x.disp ≤ 0xff := by
  simp [Access.inWindow]

section Fetch

variable {x : Access} (hm : x.master = .host)
include hm

theorem Access.fetch_of_outsideWindow (hw : x.inWindow = false) : x.fetch = .error .outsideWindow := by
  simp [Access.fetch, hm, hw]

theorem Access.fetch_of_badWidth (hw : x.inWindow = true) (h64 : x.width ≠ 64) :
    x.fetch = .error .badWidth := by
  simp [Access.fetch, hm, hw, h64]

theorem Access.fetch_of_misaligned (hw : x.inWindow = true) (h64 : x.width = 64) (h8 : x.off.toNat % 8 ≠ 0) :
    x.fetch = .error .misaligned := by
  have hdec : decode (.host x.transaction) = .error .misaligned :=
    decode_host_of_misaligned (by simpa [Access.transaction] using h8)
  simp [Access.fetch, hm, hw, h64, hdec]

theorem Access.fetch_of_decode {i : Instr} (hw : x.inWindow = true) (h64 : x.width = 64)
    (hdec : decode (.host x.transaction) = .ok i) : x.fetch = .ok i := by
  simp [Access.fetch, hm, hw, h64, hdec]

end Fetch

/-! ### The step on an access -/

section Step

variable {s : State} {x : Access} {rest : List HostEvent} (ht : s.hostTurn) (hh : s.host = .access x :: rest)
include ht hh

theorem step_of_fetch_error {r : Refusal} (hf : x.fetch = .error r) : step s = .refused r := by
  simp [step_of_hostTurn ht hh, hostStep, hf]

theorem step_of_fetch_ok {i : Instr} (hf : x.fetch = .ok i) :
    step s = onNext (exec i s) (fun s1 => s.passTurn s1 rest) := by
  simp [step_of_hostTurn ht hh, hostStep, hf]

end Step

/-! ### Addresses and offsets (R50) -/

section Address

variable {m : Master} {addr width : Nat} {we : Bool} {data : Word}

@[simp] theorem Access.atAddress_disp :
    (Access.atAddress m addr width we data).disp = (addr : Int) - (Config.base : Int) := rfl

theorem Access.atAddress_inWindow :
    (Access.atAddress m addr width we data).inWindow = true ↔ Config.base ≤ addr ∧ addr ≤ Config.base + 0xff := by
  rw [Access.inWindow_iff, Access.atAddress_disp]
  omega

theorem Access.atAddress_outside :
    (Access.atAddress m addr width we data).inWindow = false ↔ addr < Config.base ∨ Config.base + 0xff < addr := by
  rw [← Bool.not_eq_true, Access.atAddress_inWindow]
  omega

theorem Access.atAddress_off (h : Config.base ≤ addr) :
    (Access.atAddress m addr width we data).off = BitVec.ofNat 8 (addr - Config.base) := by
  have hdisp : ((addr : Int) - (Config.base : Int)).toNat = addr - Config.base := by omega
  rw [Access.off, Access.atAddress_disp, hdisp]

/-- BASE is a multiple of 256, so the address and the offset have the same bits 2:0. -/
theorem Access.atAddress_off_mod (h : Config.base ≤ addr) :
    (Access.atAddress m addr width we data).off.toNat % 8 = addr % 8 := by
  have hbase : Config.base = 256 * Config.basePage := rfl
  rw [Access.atAddress_off h, BitVec.toNat_ofNat]
  omega

/-- The grounds of R51 in the model's order (log 6): window, width, alignment. -/
theorem Access.fetch_atAddress_of_breach
    (h : (addr < Config.base ∨ Config.base + 0xff < addr) ∨ addr % 8 ≠ 0 ∨ width ≠ 64) :
    (Access.atAddress .host addr width we data).fetch =
      .error (if addr < Config.base ∨ Config.base + 0xff < addr then .outsideWindow
        else if width ≠ 64 then .badWidth else .misaligned) := by
  split_ifs with hout h64
  · exact Access.fetch_of_outsideWindow rfl (Access.atAddress_outside.2 hout)
  · exact Access.fetch_of_badWidth rfl (Access.atAddress_inWindow.2 (by omega)) h64
  · refine Access.fetch_of_misaligned rfl (Access.atAddress_inWindow.2 (by omega)) (not_not.1 h64) ?_
    rw [Access.atAddress_off_mod (by omega)]
    exact (h.resolve_left hout).resolve_right h64

theorem Access.fetch_atAddress_of_aligned (hlo : Config.base ≤ addr) (hhi : addr ≤ Config.base + 0xff)
    (h8 : addr % 8 = 0) :
    ∃ i, decode (.host (hostWord we (BitVec.ofNat 8 (addr - Config.base)) data)) = .ok i ∧
      (Access.atAddress .host addr 64 we data).fetch = .ok i := by
  have hT : (Access.atAddress .host addr 64 we data).transaction =
      hostWord we (BitVec.ofNat 8 (addr - Config.base)) data :=
    congrArg (hostWord we · data) (Access.atAddress_off hlo)
  obtain ⟨i, hdec⟩ := decode_host_of_aligned (T := (Access.atAddress .host addr 64 we data).transaction)
    (by simpa [Access.transaction, Access.atAddress_off_mod hlo] using h8)
  exact ⟨i, hT ▸ hdec, Access.fetch_of_decode rfl (Access.atAddress_inWindow.2 ⟨hlo, hhi⟩) rfl hdec⟩

end Address

/-- Settles O14: the first ground of R51 that an access breaks names its refusal. -/
theorem accessOutsideTheRulesRefused : Obligations.AccessOutsideTheRulesRefused := by
  intro s addr width we data rest ht hh
  have refused := fun h => step_of_fetch_error ht hh (Access.fetch_atAddress_of_breach h)
  refine ⟨fun hlo hhi h8 h64 => ?_, fun hlo hhi _ h64 => ?_, fun hout _ _ => ?_, fun h => ⟨_, refused h⟩⟩
  · rw [refused (.inr (.inl h8)), if_neg (by omega), if_neg (not_not.2 h64)]
  · rw [refused (.inr (.inr h64)), if_neg (by omega), if_pos h64]
  · rw [refused (.inl hout), if_pos hout]

/-- Settles O56, instruction by instruction; only the engine's instructions can fault. -/
theorem hostInstructionsAlwaysComplete : Obligations.HostInstructionsAlwaysComplete := by
  intro i s hi
  cases i with
  | round0to63 | round64to79 | finalize => cases hi
  | init ign => exact ⟨_, exec_init ign s⟩
  | compress ign => exact ⟨_, exec_compress ign s⟩
  | _ => exact ⟨_, rfl⟩

/-- Settles O15: the access is fetched, what is fetched is a host instruction, and that always completes. -/
theorem alignedAccessIsPerformed : Obligations.AlignedAccessIsPerformed := by
  intro s addr we data rest ht hh hlo hhi h8
  obtain ⟨i, hdec, hfetch⟩ := Access.fetch_atAddress_of_aligned (we := we) (data := data) hlo hhi h8
  obtain ⟨s', hexec⟩ := hostInstructionsAlwaysComplete i s (isHost_of_fetch hfetch)
  exact ⟨i, s', hdec, hexec, by rw [step_of_fetch_ok ht hh hfetch, hexec, onNext_next]⟩

end Sys2Proof.Machine

/-! ## The decoder's rows (R70 to R73, R80) -/

namespace Sys2Proof

/-! ### Slots (R71) -/

@[simp] theorem slotOff_toNat (slot : BitVec 5) : (slotOff slot).toNat = 8 * slot.toNat := by
  revert slot; decide

/-- An offset that is a multiple of 8 is a slot's. -/
theorem exists_slotOff_eq {off : BitVec 8} (h : off.toNat % 8 = 0) : ∃ slot, slotOff slot = off :=
  ⟨offSlot off, slotOff_offSlot off ((offAligned_iff off).2 h)⟩

/-- The register a slot belongs to: the rows of the register map. -/
inductive SlotRegister : BitVec 5 → Prop where
  | ctrl : SlotRegister 0#5
  | status : SlotRegister 1#5
  | rsvd10to18 (slot : BitVec 5) (h : 2 ≤ slot.toNat ∧ slot.toNat ≤ 3) : SlotRegister slot
  | rsvd20to38 (slot : BitVec 5) (h : 4 ≤ slot.toNat ∧ slot.toNat ≤ 7) : SlotRegister slot
  | hash (k : Fin 8) : SlotRegister (hSlot k)
  | message (j : Fin 16) : SlotRegister (mSlot j)

/-- Every slot belongs to a register. -/
theorem slotRegister (slot : BitVec 5) : SlotRegister slot := by
  by_cases h0 : slot.toNat = 0
  · obtain rfl : slot = 0#5 := BitVec.eq_of_toNat_eq h0
    exact .ctrl
  by_cases h1 : slot.toNat = 1
  · obtain rfl : slot = 1#5 := BitVec.eq_of_toNat_eq h1
    exact .status
  by_cases h4 : slot.toNat < 4
  · exact .rsvd10to18 slot (by omega)
  by_cases h8 : slot.toNat < 8
  · exact .rsvd20to38 slot (by omega)
  by_cases h16 : slot.toNat < 16
  · rw [← hSlot_slotH slot (by omega) h16]
    exact .hash _
  · rw [← mSlot_slotM slot (by omega)]
    exact .message _

/-! ### Reads and writes, register by register (R71) -/

section Registers

variable {slot : BitVec 5} {data : Word}

@[simp] theorem decodeRead_ctrl : decodeRead 0#5 data = .rdCtrl data := rfl

@[simp] theorem decodeRead_status : decodeRead 1#5 data = .rdStatus data := rfl

theorem decodeRead_rsvd10to18 (h : 2 ≤ slot.toNat ∧ slot.toNat ≤ 3) :
    decodeRead slot data = .rdRsvd10to18 slot data := by
  simp (disch := omega) only [decodeRead, if_neg, if_pos]

theorem decodeRead_rsvd20to38 (h : 4 ≤ slot.toNat ∧ slot.toNat ≤ 7) :
    decodeRead slot data = .rdRsvd20to38 slot data := by
  simp (disch := omega) only [decodeRead, if_neg, if_pos]

@[simp] theorem decodeRead_hSlot (k : Fin 8) : decodeRead (hSlot k) data = .rdH k data := by
  simp (disch := omega) only [decodeRead, hSlot_toNat, if_neg, if_pos, slotH_hSlot]

@[simp] theorem decodeRead_mSlot (j : Fin 16) : decodeRead (mSlot j) data = .rdM j data := by
  simp (disch := omega) only [decodeRead, mSlot_toNat, if_neg, slotM_mSlot]

@[simp] theorem decodeWrite_ctrl : decodeWrite 0#5 data = decodeCommand data := rfl

@[simp] theorem decodeWrite_status : decodeWrite 1#5 data = .wrStatus data := rfl

theorem decodeWrite_rsvd10to18 (h : 2 ≤ slot.toNat ∧ slot.toNat ≤ 3) :
    decodeWrite slot data = .wrRsvd10to18 slot data := by
  simp (disch := omega) only [decodeWrite, if_neg, if_pos]

theorem decodeWrite_rsvd20to38 (h : 4 ≤ slot.toNat ∧ slot.toNat ≤ 7) :
    decodeWrite slot data = .wrRsvd20to38 slot data := by
  simp (disch := omega) only [decodeWrite, if_neg, if_pos]

@[simp] theorem decodeWrite_hSlot (k : Fin 8) : decodeWrite (hSlot k) data = .wrH k data := by
  simp (disch := omega) only [decodeWrite, hSlot_toNat, if_neg, if_pos, slotH_hSlot]

@[simp] theorem decodeWrite_mSlot (j : Fin 16) : decodeWrite (mSlot j) data = .wrM j data := by
  simp (disch := omega) only [decodeWrite, mSlot_toNat, if_neg, slotM_mSlot]

end Registers

/-! ### Command codes (R73) -/

/-- The instruction of a CTRL write, by its fields CMD and DATA[63:4]. -/
theorem decodeCommand_commandData (ign : BitVec 60) (cmd : BitVec 4) :
    decodeCommand (commandData ign cmd) =
      if cmd.toNat = 0 then .nop ign
      else if cmd.toNat = 1 then .init ign
      else if cmd.toNat = 2 then .compress ign
      else if cmd.toNat = 3 then .rsvdCmd3 ign
      else if cmd.toNat < 8 then .rsvdCmd4to7 cmd ign
      else .rsvdCmd8to15 cmd ign := by
  simp only [decodeCommand, dataCMD_commandData, dataIgnored_commandData]

/-- A CTRL write is read by its command code. -/
theorem decode_commandWord (ign : BitVec 60) (cmd : BitVec 4) :
    decode (.host (hostWord true (slotOff 0) (commandData ign cmd))) =
      .ok (decodeCommand (commandData ign cmd)) :=
  decode_hostWord true 0 (commandData ign cmd)

/-! ### The decoder undoes the encoder -/

/-- Settles O2, instruction by instruction: each falls into its own row of the register map, of the command codes or of
the engine's states. -/
theorem decodeOfEncodeIsIdentity : Obligations.DecodeOfEncodeIsIdentity := by
  intro i hwf
  cases i with
  | nop | init | compress | rsvdCmd3 => rw [encode, decode_commandWord, decodeCommand_commandData]; rfl
  | rsvdCmd4to7 cmd | rsvdCmd8to15 cmd =>
    simp only [Instr.wf, Bool.and_eq_true, decide_eq_true_eq] at hwf
    simp (disch := omega) only [encode, decode_commandWord, decodeCommand_commandData, if_neg, if_pos]
  | rdCtrl | rdStatus | wrStatus | rdH | wrH | rdM | wrM => simp [encode, decode_hostWord]
  | rdRsvd10to18 | rdRsvd20to38 | wrRsvd10to18 | wrRsvd20to38 =>
    simp only [Instr.wf, Bool.and_eq_true, decide_eq_true_eq] at hwf
    simp [encode, decode_hostWord, decodeRead_rsvd10to18, decodeRead_rsvd20to38, decodeWrite_rsvd10to18,
      decodeWrite_rsvd20to38, hwf]
  | round0to63 | round64to79 | finalize =>
    simp only [Instr.wf, Bool.and_eq_true, decide_eq_true_eq] at hwf
    simp (disch := omega) [encode, Machine.decode_engineWord, if_neg, hwf]

/-! ### The encoder undoes the decoder -/

/-- A command is well formed and keeps every bit of DATA. -/
theorem encode_decodeCommand (data : Word) :
    (decodeCommand data).wf = true ∧
      encode (decodeCommand data) = .host (hostWord true (slotOff 0) data) := by
  rw [← commandData_fields data, decodeCommand_commandData]
  generalize dataIgnored data = ign, dataCMD data = cmd
  split_ifs with h0 h1 h2 h3 h8
  · obtain rfl : cmd = 0 := BitVec.eq_of_toNat_eq h0
    exact ⟨rfl, rfl⟩
  · obtain rfl : cmd = 1 := BitVec.eq_of_toNat_eq h1
    exact ⟨rfl, rfl⟩
  · obtain rfl : cmd = 2 := BitVec.eq_of_toNat_eq h2
    exact ⟨rfl, rfl⟩
  · obtain rfl : cmd = 3 := BitVec.eq_of_toNat_eq h3
    exact ⟨rfl, rfl⟩
  · exact ⟨by simp [Instr.wf]; omega, rfl⟩
  · exact ⟨by simp [Instr.wf]; omega, rfl⟩

/-- A read is well formed and keeps its slot and its DATA. -/
theorem encode_decodeRead (slot : BitVec 5) (data : Word) :
    (decodeRead slot data).wf = true ∧
      encode (decodeRead slot data) = .host (hostWord false (slotOff slot) data) := by
  cases slotRegister slot with
  | ctrl | status => exact ⟨rfl, rfl⟩
  | rsvd10to18 _ h => rw [decodeRead_rsvd10to18 h]; exact ⟨by simpa [Instr.wf] using h, rfl⟩
  | rsvd20to38 _ h => rw [decodeRead_rsvd20to38 h]; exact ⟨by simpa [Instr.wf] using h, rfl⟩
  | hash k => rw [decodeRead_hSlot]; exact ⟨rfl, rfl⟩
  | message j => rw [decodeRead_mSlot]; exact ⟨rfl, rfl⟩

/-- A write is well formed and keeps its slot and its DATA. -/
theorem encode_decodeWrite (slot : BitVec 5) (data : Word) :
    (decodeWrite slot data).wf = true ∧
      encode (decodeWrite slot data) = .host (hostWord true (slotOff slot) data) := by
  cases slotRegister slot with
  | ctrl => exact encode_decodeCommand data
  | status => exact ⟨rfl, rfl⟩
  | rsvd10to18 _ h => rw [decodeWrite_rsvd10to18 h]; exact ⟨by simpa [Instr.wf] using h, rfl⟩
  | rsvd20to38 _ h => rw [decodeWrite_rsvd20to38 h]; exact ⟨by simpa [Instr.wf] using h, rfl⟩
  | hash k => rw [decodeWrite_hSlot]; exact ⟨rfl, rfl⟩
  | message j => rw [decodeWrite_mSlot]; exact ⟨rfl, rfl⟩

/-- An access of a slot keeps WE, the slot and DATA. -/
theorem encode_decodeSlot (we : Bool) (slot : BitVec 5) (data : Word) :
    (if we then decodeWrite slot data else decodeRead slot data).wf = true ∧
      encode (if we then decodeWrite slot data else decodeRead slot data) =
        .host (hostWord we (slotOff slot) data) := by
  cases we with
  | true => exact encode_decodeWrite slot data
  | false => exact encode_decodeRead slot data

/-- A transaction that decodes is aligned; WE selects the read or the write of its slot. -/
theorem decode_host_eq_ok {T : BitVec 73} {i : Instr} (h : decode (.host T) = .ok i) :
    offAligned (hostOFF T) = true ∧
      i = if hostWE T then decodeWrite (offSlot (hostOFF T)) (hostDATA T)
        else decodeRead (offSlot (hostOFF T)) (hostDATA T) := by
  simp only [decode, decodeHost] at h
  split_ifs at h with hal hwe <;> cases h
  · exact ⟨hal, (if_pos hwe).symm⟩
  · exact ⟨hal, (if_neg hwe).symm⟩

theorem encode_of_decode_host {T : BitVec 73} {i : Instr} (h : decode (.host T) = .ok i) :
    i.wf = true ∧ encode i = .host T := by
  obtain ⟨hal, rfl⟩ := decode_host_eq_ok h
  have h := encode_decodeSlot (hostWE T) (offSlot (hostOFF T)) (hostDATA T)
  rwa [slotOff_offSlot _ hal, hostWord_fields] at h

theorem encode_of_decode_engine {E : BitVec 8} {i : Instr} (h : decode (.engine E) = .ok i) :
    i.wf = true ∧ encode i = .engine E := by
  rw [← engineWord_fields E] at h ⊢
  generalize engineT E = t at h ⊢
  rw [Machine.decode_engineWord] at h
  split_ifs at h with hb h63 h79 h80 <;> cases h <;> rw [hb]
  · exact ⟨by simpa [Instr.wf] using h63, rfl⟩
  · exact ⟨by simp [Instr.wf]; omega, rfl⟩
  · obtain rfl : t = 80 := BitVec.eq_of_toNat_eq h80
    exact ⟨rfl, rfl⟩

/-- Settles O3: the fields of a word, put back together, are the word. -/
theorem decodedWordIsEncoding : Obligations.DecodedWordIsEncoding
  | .host _, _, h => encode_of_decode_host h
  | .engine _, _, h => encode_of_decode_engine h

/-! ### The opcode table (R79 to R81) -/

/-- A well-formed instruction's encoding lies in the row of its mnemonic and in no other. -/
theorem rowsCovering_encode (i : Instr) : Laws.RowMatch.Statement i := by
  cases i with
  | nop => exact Laws.RowMatch.nop _
  | init => exact Laws.RowMatch.init _
  | compress => exact Laws.RowMatch.compress _
  | rsvdCmd3 => exact Laws.RowMatch.rsvdCmd3 _
  | rsvdCmd4to7 => exact Laws.RowMatch.rsvdCmd4to7 _ _
  | rsvdCmd8to15 => exact Laws.RowMatch.rsvdCmd8to15 _ _
  | rdCtrl => exact Laws.RowMatch.rdCtrl _
  | rdStatus => exact Laws.RowMatch.rdStatus _
  | wrStatus => exact Laws.RowMatch.wrStatus _
  | rdH => exact Laws.RowMatch.rdH _ _
  | wrH => exact Laws.RowMatch.wrH _ _
  | rdM => exact Laws.RowMatch.rdM _ _
  | wrM => exact Laws.RowMatch.wrM _ _
  | rdRsvd10to18 => exact Laws.RowMatch.rdRsvd10to18 _ _
  | rdRsvd20to38 => exact Laws.RowMatch.rdRsvd20to38 _ _
  | wrRsvd10to18 => exact Laws.RowMatch.wrRsvd10to18 _ _
  | wrRsvd20to38 => exact Laws.RowMatch.wrRsvd20to38 _ _
  | round0to63 => exact Laws.RowMatch.round0to63 _
  | round64to79 => exact Laws.RowMatch.round64to79 _
  | finalize => exact Laws.RowMatch.finalize

/-- Every host row asks for OFF[2:0] = 000. -/
theorem offAligned_of_covers {r : Row 73} (hr : r ∈ hostRows) {T : BitVec 73} (h : r.covers T = true) :
    offAligned (hostOFF T) = true := by
  have hrow : ∀ r ∈ hostRows, (hostOFF r.mask).extractLsb' 0 3 = BitVec.allOnes 3 ∧
      (hostOFF r.pattern).extractLsb' 0 3 = 0#3 := by decide
  obtain ⟨hmask, hpattern⟩ := hrow r hr
  have hand : T &&& r.mask = r.pattern := by simpa [Row.covers] using h
  have hlow : (hostOFF T).extractLsb' 0 3 &&& (hostOFF r.mask).extractLsb' 0 3 =
      (hostOFF r.pattern).extractLsb' 0 3 := by
    rw [← hand, hostOFF, hostOFF, hostOFF, BitVec.extractLsb'_and, BitVec.extractLsb'_and]
  rw [hmask, hpattern, BitVec.and_allOnes] at hlow
  simp [offAligned, hlow]

theorem rowsCovering_of_decode_host_error {T : BitVec 73} {err : DecodeError} (h : decode (.host T) = .error err) :
    rowsCovering (.host T) = [] := by
  have hal : ¬ offAligned (hostOFF T) = true := by
    intro hal
    obtain ⟨i, hi⟩ := Machine.decode_host_of_aligned ((offAligned_iff _).1 hal)
    rw [hi] at h; cases h
  simpa [rowsCovering] using fun r hr hc => hal (offAligned_of_covers hr hc)

theorem rowsCovering_of_decode_engine_error {E : BitVec 8} {err : DecodeError} (h : decode (.engine E) = .error err) :
    rowsCovering (.engine E) = [] := by
  cases err <;> revert E <;> decide

/-- Settles O4: an accepted word is the encoding of a well-formed instruction, and every row that covers a word asks
for what the decoder asks for. -/
theorem opcodeTableRowIsTheDecodedOne : Obligations.OpcodeTableRowIsTheDecodedOne := by
  intro e
  cases h : decode e with
  | ok i =>
    obtain ⟨hwf, rfl⟩ := decodedWordIsEncoding e i h
    exact rowsCovering_encode i hwf
  | error err =>
    cases e with
    | host T => exact rowsCovering_of_decode_host_error h
    | engine E => exact rowsCovering_of_decode_engine_error h

/-- Settles O5: alignment is the decoder's only demand on a transaction. -/
theorem hostDecoderIsTotal : Obligations.HostDecoderIsTotal := by
  refine fun T => ⟨fun h => ?_, Machine.decode_host_of_misaligned⟩
  obtain ⟨i, hi⟩ := Machine.decode_host_of_aligned h
  exact ⟨i, hi, Machine.isHost_of_decode_host hi⟩

/-- Settles O1: the words are read one by one. -/
theorem wordsOfTheSpecDecode : Obligations.WordsOfTheSpecDecode := by
  unfold Obligations.WordsOfTheSpecDecode
  decide

end Sys2Proof

/-! ## The register map (R71) and the STATUS word (R75) -/

namespace Sys2Proof.Machine

/-! ### The STATUS word -/

theorem State.statusWord_toNat (s : State) :
    s.statusWord.toNat = s.errcode.toNat * 16 + s.err.toNat * 4 + s.done.toNat * 2 + s.busy.toNat := by
  have hcode := s.errcode.isLt
  have herr := s.err.toNat_le
  have hdone := s.done.toNat_le
  have hbusy := s.busy.toNat_le
  rw [State.statusWord, BitVec.toNat_ofNat]
  omega

/-- The fields of STATUS at their bits (R75). -/
theorem State.statusWord_bits (s : State) :
    s.statusWord.getLsbD 0 = s.busy ∧ s.statusWord.getLsbD 1 = s.done ∧ s.statusWord.getLsbD 2 = s.err ∧
      s.statusWord.getLsbD 3 = false ∧ s.statusWord.extractLsb' 4 4 = s.errcode := by
  unfold State.statusWord
  generalize s.errcode = code, s.err = err, s.done = done, s.busy = busy
  revert code err done busy
  decide

theorem State.statusWord_lt (s : State) : s.statusWord.toNat < 2 ^ 8 := by
  have hcode := s.errcode.isLt
  have herr := s.err.toNat_le
  have hdone := s.done.toNat_le
  have hbusy := s.busy.toNat_le
  rw [s.statusWord_toNat]
  omega

/-- Bits 63:8 of STATUS are 0 (R75). -/
theorem State.statusWord_high (s : State) {n : Nat} (hn : 8 ≤ n) : s.statusWord.getLsbD n = false :=
  Nat.testBit_lt_two_pow (s.statusWord_lt.trans_le (Nat.pow_le_pow_right (by decide) hn))

/-- Settles O27: the word a STATUS read returns is `statusWord`, whose bits are the fields. -/
theorem statusReadReturnsTheFields : Obligations.StatusReadReturnsTheFields := by
  refine ⟨rfl, fun data s => ?_⟩
  obtain ⟨hbusy, hdone, herr, hzero, hcode⟩ := s.statusWord_bits
  exact ⟨s.statusWord, decode_hostWord false 1 data, decode_hostWord true 1 data, rfl, rfl,
    hbusy, hdone, herr, hzero, hcode, fun n hn => s.statusWord_high hn⟩

theorem pollAccess_fetch : pollAccess.fetch = .ok (.rdStatus 0) := by decide

/-- POLL reads the STATUS word, and goes on while BUSY was 1 (R83). -/
theorem pollRest_answer_statusWord (s : State) (rest : List HostEvent) :
    pollRest rest (s.answer s.statusWord) = if s.busy then .poll :: rest else rest :=
  congrArg (if · then HostEvent.poll :: rest else rest) s.statusWord_bits.1

/-- Settles O8: POLL's transaction is RD STATUS, and the word it reads has BUSY in bit 0. -/
theorem pollRepeatsWhileBusy : Obligations.PollRepeatsWhileBusy := by
  intro s rest ht hh
  simp [step_of_hostTurn ht hh, hostStep, pollAccess_fetch, pollRest_answer_statusWord]

/-! ### Reads at every slot -/

/-- The word a read of a slot returns: the read column of R71. -/
def State.readWord (s : State) (slot : BitVec 5) : Word :=
  if slot.toNat = 1 then s.statusWord
  else if slot.toNat < 8 then 0
  else if slot.toNat < 16 then s.H[slotH slot]
  else s.M[slotM slot]

section Reads

variable (s : State)

@[simp] theorem State.readWord_status : s.readWord 1#5 = s.statusWord := rfl

theorem State.readWord_eq_zero {slot : BitVec 5} (h8 : slot.toNat < 8) (h1 : slot.toNat ≠ 1) :
    s.readWord slot = 0 := by
  rw [State.readWord, if_neg h1, if_pos h8]

@[simp] theorem State.readWord_hSlot (k : Fin 8) : s.readWord (hSlot k) = s.H[k] := by
  simp (disch := omega) only [State.readWord, hSlot_toNat, if_neg, if_pos, slotH_hSlot]

@[simp] theorem State.readWord_mSlot (j : Fin 16) : s.readWord (mSlot j) = s.M[j] := by
  simp (disch := omega) only [State.readWord, mSlot_toNat, if_neg, slotM_mSlot]

/-- A read returns its slot's word and has no other effect. -/
theorem exec_decodeRead (slot : BitVec 5) (data : Word) :
    exec (decodeRead slot data) s = .next (s.answer (s.readWord slot)) := by
  cases slotRegister slot with
  | ctrl | status => rfl
  | rsvd10to18 _ h => rw [decodeRead_rsvd10to18 h, exec_rdRsvd10to18, s.readWord_eq_zero (by omega) (by omega)]
  | rsvd20to38 _ h => rw [decodeRead_rsvd20to38 h, exec_rdRsvd20to38, s.readWord_eq_zero (by omega) (by omega)]
  | hash k => rw [decodeRead_hSlot, exec_rdH, s.readWord_hSlot]
  | message j => rw [decodeRead_mSlot, exec_rdM, s.readWord_mSlot]

end Reads

/-- Settles O24: the read returns `readWord` of its slot, which each clause names. -/
theorem readsFollowTheRegisterMap : Obligations.ReadsFollowTheRegisterMap := by
  intro s off data h8
  obtain ⟨slot, rfl⟩ := exists_slotOff_eq h8
  rw [slotOff_toNat]
  refine ⟨_, s.readWord slot, decode_hostWord false slot data, exec_decodeRead s slot data,
    fun h => ?_, fun h => ?_, fun hlo hhi => ?_, fun k h => ?_, fun j h => ?_⟩
  · exact s.readWord_eq_zero (by omega) (by omega)
  · obtain rfl : slot = 1#5 := BitVec.eq_of_toNat_eq (by simp; omega)
    exact s.statusWord_toNat
  · exact s.readWord_eq_zero (by omega) (by omega)
  · obtain rfl : slot = hSlot k := BitVec.eq_of_toNat_eq (by simp; omega)
    exact s.readWord_hSlot k
  · obtain rfl : slot = mSlot j := BitVec.eq_of_toNat_eq (by simp; omega)
    exact s.readWord_mSlot j

/-! ### Writes at every slot but CTRL's -/

section Writes

variable (s : State) {slot : BitVec 5} {data : Word}

theorem exec_decodeWrite_mSlot (j : Fin 16) : exec (decodeWrite (mSlot j) data) s = .next (s.setM j data) := by
  rw [decodeWrite_mSlot, exec_wrM]

/-- A write below the message buffer is ignored. -/
theorem exec_decodeWrite_of_lt (h0 : slot.toNat ≠ 0) (h16 : slot.toNat < 16) :
    exec (decodeWrite slot data) s = .next s := by
  cases slotRegister slot with
  | ctrl => exact absurd rfl h0
  | status => rfl
  | rsvd10to18 _ h => rw [decodeWrite_rsvd10to18 h, exec_wrRsvd10to18]
  | rsvd20to38 _ h => rw [decodeWrite_rsvd20to38 h, exec_wrRsvd20to38]
  | hash k => rw [decodeWrite_hSlot, exec_wrH]
  | message j => rw [mSlot_toNat] at h16; omega

end Writes

/-- Settles O25: a slot below 16 is ignored, any other is that of an M word. -/
theorem writesFollowTheRegisterMap : Obligations.WritesFollowTheRegisterMap := by
  intro s off data h8 h0
  obtain ⟨slot, rfl⟩ := exists_slotOff_eq h8
  rw [slotOff_toNat] at *
  by_cases h16 : slot.toNat < 16
  · exact ⟨_, s, decode_hostWord true slot data, exec_decodeWrite_of_lt s (by omega) h16, rfl,
      fun j => (if_neg (by omega)).symm⟩
  · obtain ⟨k, rfl⟩ : ∃ k, slot = mSlot k := ⟨slotM slot, (mSlot_slotM slot (by omega)).symm⟩
    refine ⟨_, s.setM k data, decode_hostWord true _ data, exec_decodeWrite_mSlot s k, rfl, fun j => ?_⟩
    have hjk : 8 * (mSlot k).toNat = 0x80 + 8 * j.val ↔ k.val = j.val := by
      rw [mSlot_toNat]; omega
    simp only [hjk, State.setM_M, Fin.getElem_fin, Vector.getElem_set]

end Sys2Proof.Machine

/-! ## Padding (R100 to R104) -/

namespace Sys2Proof.Machine

/-! ### The bits of a number -/

@[simp] theorem natBits_length (w x : Nat) : (natBits w x).length = w := by
  simp [natBits]

/-- The most significant bit comes first. -/
theorem natBits_getD {w n : Nat} (x : Nat) (h : n < w) : (natBits w x).getD n false = x.testBit (w - 1 - n) := by
  simp [natBits, List.getD, h]

theorem natBits_mod_two_pow (w x : Nat) : natBits w (x % 2 ^ w) = natBits w x := by
  refine List.map_congr_left fun k hk => ?_
  have hk : k < w := List.mem_range.mp hk
  simp [Nat.testBit_mod_two_pow, show w - 1 - k < w by omega]

/-- The high bits come before the low ones. -/
theorem natBits_add (m n x : Nat) : natBits (m + n) x = natBits m (x / 2 ^ n) ++ natBits n x := by
  simp only [natBits, List.range_add, List.map_append, List.map_map]
  congr 1 <;> refine List.map_congr_left fun k hk => ?_
  · have hk : k < m := List.mem_range.mp hk
    rw [Nat.testBit_div_two_pow, show m - 1 - k + n = m + n - 1 - k by omega]
  · simp only [Function.comp_apply, show m + n - 1 - (m + k) = n - 1 - k by omega]

/-! ### The bits of a byte string -/

@[simp] theorem bitsOfBytes_append (B C : List Byte) : bitsOfBytes (B ++ C) = bitsOfBytes B ++ bitsOfBytes C :=
  List.flatMap_append

@[simp] theorem bitsOfBytes_singleton (b : Byte) : bitsOfBytes [b] = natBits 8 b.toNat :=
  List.flatMap_singleton ..

@[simp] theorem bitsOfBytes_length (B : List Byte) : (bitsOfBytes B).length = 8 * B.length := by
  simp [bitsOfBytes, List.length_flatMap, Nat.mul_comm]

theorem bitsOfBytes_replicate_zero (z : Nat) :
    bitsOfBytes (List.replicate z 0) = List.replicate (8 * z) false := by
  induction z with
  | zero => rfl
  | succ z ih =>
    have zero_byte : natBits 8 (0 : Byte).toNat = List.replicate 8 false := by decide
    rw [List.replicate_succ', bitsOfBytes_append, ih, bitsOfBytes_singleton, zero_byte,
      List.replicate_append_replicate, Nat.mul_succ]

/-- The big-endian bytes of a number hold its bits, most significant first. -/
theorem bitsOfBytes_natBytes (n x : Nat) : bitsOfBytes (natBytes n x) = natBits (8 * n) x := by
  induction n generalizing x with
  | zero => rfl
  | succ n ih =>
    rw [natBytes_succ, bitsOfBytes_append, ih, bitsOfBytes_singleton, BitVec.toNat_ofNat,
      natBits_mod_two_pow, Nat.mul_succ, natBits_add (8 * n) 8]
    simp only [Nat.reducePow]

/-! ### How many zeros the padder adds -/

theorem padZeroBits_lt (l : Nat) : padZeroBits l < 1024 := by
  unfold padZeroBits; omega

theorem padZeroBits_fills_block (l : Nat) : (l + 1 + padZeroBits l + 128) % 1024 = 0 := by
  unfold padZeroBits; omega

/-- R101 adds the fewest zero bits that fill the last block. -/
theorem padZeroBits_le {l k : Nat} (h : (l + 1 + k + 128) % 1024 = 0) : padZeroBits l ≤ k := by
  have hlt := padZeroBits_lt l
  have hfill := padZeroBits_fills_block l
  omega

theorem padZeroBytes_lt (n : Nat) : padZeroBytes n < 128 := by
  unfold padZeroBytes; omega

theorem padZeroBytes_fills_block (n : Nat) : (n + 17 + padZeroBytes n) % 128 = 0 := by
  unfold padZeroBytes; omega

/-- On whole bytes the byte 0x80 holds the 1 bit and the first seven zero bits (R102). -/
theorem padZeroBits_eight_mul (n : Nat) : padZeroBits (8 * n) = 7 + 8 * padZeroBytes n := by
  unfold padZeroBits padZeroBytes; omega

/-! ### What the padder answers -/

section Pad

variable {X : List Bool} {l : Int}

theorem pad_of_out_of_range (h : l < 0 ∨ 2 ^ 128 ≤ l) : pad X l = .error .invalidInputLength :=
  if_pos h

theorem pad_of_length_ne (h0 : 0 ≤ l) (h128 : l < 2 ^ 128) (hne : l ≠ X.length) :
    pad X l = .error .lengthMismatch := by
  rw [pad, if_neg (by omega), if_pos hne]

theorem pad_of_length_eq (h128 : l < 2 ^ 128) (h : l = X.length) :
    pad X l = .ok (X ++ [true] ++ List.replicate (padZeroBits X.length) false ++ natBits 128 X.length) := by
  rw [pad, if_neg (by omega), if_neg (not_not.mpr h)]

/-- What the padder refuses has no digest (R103). -/
theorem sha512_of_pad_error {e : PadError} (h : pad X l = .error e) : sha512 X l = .error e := by
  rw [sha512, h]

end Pad

/-- Settles O59: each clause is one answer of the padder. -/
theorem paddingHasTheSpecifiedShape : Obligations.PaddingHasTheSpecifiedShape := by
  intro X l
  refine ⟨fun h => ?_, fun h0 h128 hne => ?_, fun h128 h => ?_⟩
  · have hpad := pad_of_out_of_range (X := X) h
    exact ⟨hpad, sha512_of_pad_error hpad⟩
  · have hpad := pad_of_length_ne h0 h128 hne
    exact ⟨hpad, sha512_of_pad_error hpad⟩
  · exact ⟨_, _, pad_of_length_eq h128 h, natBits_length .., fun n hn => natBits_getD _ hn,
      padZeroBits_fills_block _, fun k' => padZeroBits_le⟩

/-! ### The byte form (R102, R104) -/

theorem padBytes_length (B : List Byte) : (padBytes B).length = B.length + 17 + padZeroBytes B.length := by
  simp only [padBytes, be128, List.length_append, List.length_singleton, List.length_replicate, natBytes_length]
  omega

/-- Part by part: 0x80 is the 1 bit with seven zero bits, the zero bytes are the other zero bits, BE128 is L. -/
theorem bitsOfBytes_padBytes (B : List Byte) :
    bitsOfBytes (padBytes B) = bitsOfBytes B ++ [true] ++ List.replicate (padZeroBits (8 * B.length)) false ++
      natBits 128 (8 * B.length) := by
  have marker : bitsOfBytes [0x80] = [true] ++ List.replicate 7 false := by decide
  simp only [padBytes, be128, bitsOfBytes_append, marker, bitsOfBytes_replicate_zero, bitsOfBytes_natBytes,
    padZeroBits_eight_mul, ← List.replicate_append_replicate, List.append_assoc, Nat.reduceMul]

/-- Settles O60: the padder's answer is the byte form part by part, whose length fixes the number of blocks. -/
theorem byteFormOfPadding : Obligations.ByteFormOfPadding := by
  intro B hB
  have hpad := pad_of_length_eq (X := bitsOfBytes B) (l := 8 * B.length) (by omega) (by simp)
  rw [bitsOfBytes_length, ← bitsOfBytes_padBytes] at hpad
  have hlen := padBytes_length B
  have hlt := padZeroBytes_lt B.length
  have hfill := padZeroBytes_fills_block B.length
  exact ⟨hpad, by omega, by omega, by omega⟩

end Sys2Proof.Machine

/-! ## The word functions: rotr, shr and the sigmas (R120 to R123, R142, R143) -/

namespace Sys2Proof.Machine

theorem shr_toNat (x : Word) (n : Nat) : (shr x n).toNat = x.toNat / 2 ^ n := by
  rw [shr, BitVec.toNat_ushiftRight, Nat.shiftRight_eq_div_pow]

@[simp] theorem shr_getLsbD (x : Word) (n i : Nat) : (shr x n).getLsbD i = x.getLsbD (i + n) := by
  rw [shr, BitVec.getLsbD_ushiftRight, Nat.add_comm]

@[simp] theorem rotr_zero (x : Word) : rotr x 0 = x := by
  simp [rotr, shr]

/-- R120's formula: the bits that a right shift drops come back at the top. -/
theorem rotr_eq_shr_or_mul (x : Word) (n : Nat) :
    rotr x n = shr x n ||| BitVec.ofNat 64 (x.toNat * 2 ^ (64 - n)) := by
  have hshift : x <<< (64 - n) = BitVec.ofNat 64 (x.toNat * 2 ^ (64 - n)) :=
    BitVec.eq_of_toNat_eq (by simp [Nat.shiftLeft_eq])
  rw [rotr, hshift]

/-- A bit below 64 - n comes from the shifted word, a bit at or above it from the bits that wrap around. -/
theorem rotr_getLsbD (x : Word) {n i : Nat} (hn : n < 64) (hi : i < 64) :
    (rotr x n).getLsbD i = x.getLsbD ((i + n) % 64) := by
  rw [rotr, BitVec.getLsbD_or, shr_getLsbD, BitVec.getLsbD_shiftLeft]
  by_cases hwrap : i < 64 - n
  · have hmod : (i + n) % 64 = i + n := by omega
    simp [hmod, hwrap]
  · have hmod : (i + n) % 64 = i - (64 - n) := by omega
    simp [hmod, hwrap, hi, BitVec.getLsbD_of_ge x (i + n) (by omega)]

/-- Settles O36: R120's formula, and where each bit of it comes from. -/
theorem rotationMovesEveryBit : Obligations.RotationMovesEveryBit :=
  ⟨rotr_zero, fun x n _ _ hn hi => ⟨rotr_eq_shr_or_mul x n, rotr_getLsbD x hn hi⟩⟩

/-- Settles O37: a bit at or above 64 - n of the shifted word would be a bit at or above 64 of the operand. -/
theorem shiftIsLogical : Obligations.ShiftIsLogical := by
  intro x n _ _
  refine ⟨shr_toNat x n, fun i hi => ?_⟩
  rw [shr_getLsbD]
  exact BitVec.getLsbD_of_ge x (i + n) (by omega)

/-- A shift brings nothing from beyond bit 63. -/
theorem shr_getLsbD_eq_and (x : Word) (n i : Nat) :
    (shr x n).getLsbD i = (decide (i + n < 64) && x.getLsbD (i + n)) := by
  by_cases h : i + n < 64
  · simp [h]
  · simp [h, BitVec.getLsbD_of_ge x (i + n) (by omega)]

/-- Settles O38: an exclusive or acts bit by bit, on the bits that `rotr` and `shr` bring. -/
theorem sigmaFunctionsBitByBit : Obligations.SigmaFunctionsBitByBit := by
  intro x i hi
  have hrot : ∀ n < 64, (rotr x n).getLsbD i = x.getLsbD ((i + n) % 64) := fun n hn => rotr_getLsbD x hn hi
  simp only [smallSigma0, smallSigma1, bigSigma0, bigSigma1, BitVec.getLsbD_xor, hrot, shr_getLsbD_eq_and,
    Nat.reduceLT, and_self]

end Sys2Proof.Machine

/-! ## The message schedule (R124 to R127) -/

namespace Sys2Proof.Machine

variable {M Wwin : Vector Word 16} {t : Nat}

/-! ### The schedule of a block -/

@[simp] theorem schedulePart_length (M : Vector Word 16) (n : Nat) : (schedulePart M n).length = n + 16 := by
  induction n with
  | zero => exact M.length_toList
  | succ n ih => rw [schedulePart, List.length_append, ih, List.length_singleton, Nat.add_right_comm]

/-- A word of the schedule, once appended, stays. -/
theorem schedulePart_getD_of_le {m n : Nat} (hmn : m ≤ n) (ht : t < m + 16) :
    (schedulePart M n).getD t 0 = (schedulePart M m).getD t 0 := by
  induction n, hmn using Nat.le_induction with
  | base => rfl
  | succ n hmn ih => rw [schedulePart, List.getD_append _ _ _ _ (by rw [schedulePart_length]; omega), ih]

theorem scheduleWord_eq_schedulePart_getD {n : Nat} (hn : n ≤ 64) (ht : t < n + 16) :
    scheduleWord M t = (schedulePart M n).getD t 0 :=
  schedulePart_getD_of_le hn ht

theorem scheduleWord_of_lt_sixteen (ht : t < 16) : scheduleWord M t = M[t] := by
  rw [scheduleWord_eq_schedulePart_getD (Nat.zero_le 64) ht, schedulePart, List.getD_eq_getElem _ _ (by simpa)]
  rfl

/-- R124's recurrence, counted from W[n] on. -/
theorem scheduleWord_add_sixteen {n : Nat} (hn : n < 64) :
    scheduleWord M (n + 16) = smallSigma1 (scheduleWord M (n + 14)) + scheduleWord M (n + 9) +
      smallSigma0 (scheduleWord M (n + 1)) + scheduleWord M n := by
  have old : ∀ k < n + 16, scheduleWord M k = (schedulePart M n).getD k 0 := fun k hk =>
    scheduleWord_eq_schedulePart_getD hn.le hk
  rw [scheduleWord_eq_schedulePart_getD hn (by omega), schedulePart,
    List.getD_append_right _ _ _ _ (schedulePart_length M n).le, schedulePart_length, Nat.sub_self,
    List.getD_cons_zero, old (n + 14) (by omega), old (n + 9) (by omega), old (n + 1) (by omega),
    old n (by omega)]

theorem scheduleWord_of_sixteen_le (h16 : 16 ≤ t) (ht : t < 80) :
    scheduleWord M t = smallSigma1 (scheduleWord M (t - 2)) + scheduleWord M (t - 7) +
      smallSigma0 (scheduleWord M (t - 15)) + scheduleWord M (t - 16) := by
  obtain ⟨n, rfl⟩ := Nat.exists_eq_add_of_le' h16
  exact scheduleWord_add_sixteen (by omega)

/-- Settles O41: the block stands first, and each later word is the one appended after it. -/
theorem scheduleRecurrence : Obligations.ScheduleRecurrence := by
  refine fun M t ht => ⟨?_, fun h16 => scheduleWord_of_sixteen_le h16 ht⟩
  rintro j rfl
  exact scheduleWord_of_lt_sixteen j.isLt

/-! ### One step over the window -/

theorem eq_winSlot_iff {j : Fin 16} {n : Nat} : j = winSlot n ↔ j.val = n % 16 :=
  Fin.ext_iff

theorem schedWord_of_lt_sixteen (ht : t < 16) : schedWord Wwin t = Wwin[winSlot t] :=
  if_pos (Nat.le_of_lt_succ ht)

theorem schedWord_of_sixteen_le (h16 : 16 ≤ t) :
    schedWord Wwin t = smallSigma1 Wwin[winSlot (t - 2)] + Wwin[winSlot (t - 7)] +
      smallSigma0 Wwin[winSlot (t - 15)] + Wwin[winSlot t] :=
  if_neg (Nat.not_le_of_lt h16)

theorem schedWindow_of_lt_sixteen (ht : t < 16) : schedWindow Wwin t = Wwin :=
  if_pos (Nat.le_of_lt_succ ht)

theorem schedWindow_getElem_of_sixteen_le (h16 : 16 ≤ t) (j : Fin 16) :
    (schedWindow Wwin t)[j] = if j = winSlot t then schedWord Wwin t else Wwin[j] := by
  rw [schedWindow, if_neg (Nat.not_le_of_lt h16), Fin.getElem_fin, Vector.getElem_set]
  simp only [Fin.ext_iff, Fin.getElem_fin, eq_comm (a := j.val)]

/-- Settles O33: the two clauses below 16 read the window, the third reads four slots of it and writes one. -/
theorem scheduleWordStep : Obligations.ScheduleWordStep := by
  intro Wwin t _
  refine ⟨fun j ht hj => ?_, fun ht => schedWindow_of_lt_sixteen (by omega),
    fun j2 j7 j15 j0 h16 h2 h7 h15 h0 => ?_⟩
  · obtain rfl : j = winSlot t := eq_winSlot_iff.2 (by omega)
    exact schedWord_of_lt_sixteen (by omega)
  · obtain rfl := eq_winSlot_iff.2 h2
    obtain rfl := eq_winSlot_iff.2 h7
    obtain rfl := eq_winSlot_iff.2 h15
    obtain rfl := eq_winSlot_iff.2 h0
    exact ⟨schedWord_of_sixteen_le h16, schedWindow_getElem_of_sixteen_le h16⟩

/-! ### The window holds the last sixteen words of the schedule -/

/-- The window loaded from the block holds its first sixteen words (R125). -/
theorem windowHolds_load (M : Vector Word 16) : WindowHolds M 0 M := by
  intro j n hn _ hj
  have hnj : n = j.val := by omega
  subst hnj
  exact (scheduleWord_of_lt_sixteen j.isLt).symm

theorem WindowHolds.getElem_winSlot (h : WindowHolds M t Wwin) {n : Nat} (hlt : n < max t 16)
    (hge : max t 16 ≤ n + 16) : Wwin[winSlot n] = scheduleWord M n :=
  h (winSlot n) n hlt hge rfl

/-- The slot that is about to take W[t] still holds W[t-16]. -/
theorem WindowHolds.getElem_winSlot_self (h : WindowHolds M t Wwin) (h16 : 16 ≤ t) :
    Wwin[winSlot t] = scheduleWord M (t - 16) :=
  h (winSlot t) (t - 16) (by omega) (by omega) (Nat.mod_eq_sub_mod h16).symm

/-- SchedWord(t) is W[t] (R127). -/
theorem WindowHolds.schedWord_eq (h : WindowHolds M t Wwin) (ht : t < 80) : schedWord Wwin t = scheduleWord M t := by
  rcases Nat.lt_or_ge t 16 with h16 | h16
  · rw [schedWord_of_lt_sixteen h16, h.getElem_winSlot (by omega) (by omega)]
  · rw [schedWord_of_sixteen_le h16, scheduleWord_of_sixteen_le h16 ht, h.getElem_winSlot_self h16,
      h.getElem_winSlot (n := t - 2) (by omega) (by omega), h.getElem_winSlot (n := t - 7) (by omega) (by omega),
      h.getElem_winSlot (n := t - 15) (by omega) (by omega)]

/-- From t = 16 on the slot written takes the word that enters, and every other slot holds a word that stays. -/
theorem WindowHolds.succ (h : WindowHolds M t Wwin) (ht : t < 80) :
    WindowHolds M (t + 1) (schedWindow Wwin t) := by
  intro j n hn hge hj
  rcases Nat.lt_or_ge t 16 with h16 | h16
  · rw [schedWindow_of_lt_sixteen h16]
    exact h j n (by omega) (by omega) hj
  · have hslot : j = winSlot t ↔ n = t := by
      rw [eq_winSlot_iff]
      omega
    rw [schedWindow_getElem_of_sixteen_le h16]
    by_cases hnt : n = t
    · rw [if_pos (hslot.2 hnt), hnt, h.schedWord_eq ht]
    · rw [if_neg (mt hslot.1 hnt)]
      exact h j n (by omega) (by omega) hj

/-- Settles O42: the window at round 0, and one round's step of it. -/
theorem windowTracksTheSchedule : Obligations.WindowTracksTheSchedule :=
  fun M => ⟨windowHolds_load M, fun _ _ ht h => ⟨h.schedWord_eq ht, h.succ ht⟩⟩

end Sys2Proof.Machine

/-! ## COMPRESS, ROUND and FINALIZE (R146 to R148) -/

namespace Sys2Proof.Machine

/-- Settles O20: CMD = 2 is COMPRESS, which with BUSY = 0 answers `startCompression`. -/
theorem compressLoadsAndStarts : Obligations.CompressLoadsAndStarts := by
  intro ign s hb
  have hdecode : decode (.host (hostWord true 0x00 (commandData ign 2))) = .ok (.compress ign) :=
    (decode_commandWord ign 2).trans (congrArg _ (decodeCommand_commandData ign 2))
  exact ⟨hdecode, s.startCompression, by simp [hb], rfl, fun _ => rfl, rfl, rfl, rfl, rfl⟩

/-- Settles O32: both rows of ROUND answer `runRound` where the engine stands at their t. -/
theorem roundStepMixesTheWorkingVariables : Obligations.RoundStepMixesTheWorkingVariables := by
  intro s hr hb
  have hat : s.engineAt s.t = true := (s.engineAt_iff s.t).2 ⟨hr, hb, rfl⟩
  refine ⟨_, _, s.runRound, rfl, rfl, rfl, rfl, rfl, rfl, fun h63 => ⟨?_, ?_⟩, fun h64 h79 => ⟨?_, ?_⟩⟩
  · rw [decode_engineWord, if_pos hb, if_pos h63]
  · exact exec_round0to63_eq_next.2 ⟨hat, h63, rfl⟩
  · rw [decode_engineWord, if_pos hb, if_neg (by omega), if_pos h79]
  · exact exec_round64to79_eq_next.2 ⟨hat, ⟨h64, h79⟩, rfl⟩

/-- Settles O34: where the engine stands at t = 80 FINALIZE answers `runFinalize`. -/
theorem finalizeAddsIntoTheHash : Obligations.FinalizeAddsIntoTheHash := by
  intro s hr hb ht
  refine ⟨?_, exec_finalize_eq_next.2 ⟨(s.engineAt_iff 80).2 ⟨hr, hb, ht⟩, rfl⟩⟩
  rw [decode_engineWord, if_pos hb, ht]
  rfl

end Sys2Proof.Machine

/-! ## Choose and majority (R144, R145) -/

namespace Sys2Proof.Machine

theorem ch_getLsbD (x y z : Word) {i : Nat} (hi : i < 64) :
    (ch x y z).getLsbD i = if x.getLsbD i then y.getLsbD i else z.getLsbD i := by
  rw [ch, BitVec.getLsbD_xor, BitVec.getLsbD_and, BitVec.getLsbD_and, BitVec.getLsbD_not]
  cases x.getLsbD i <;> simp [hi]

theorem maj_getLsbD (x y z : Word) (i : Nat) :
    (maj x y z).getLsbD i =
      ((x.getLsbD i && y.getLsbD i) ^^ (x.getLsbD i && z.getLsbD i) ^^ (y.getLsbD i && z.getLsbD i)) := by
  simp only [maj, BitVec.getLsbD_xor, BitVec.getLsbD_and]

/-- R145's formula on one bit says that two of the three are set. -/
theorem majority_iff : ∀ a b c : Bool,
    ((a && b) ^^ (a && c) ^^ (b && c)) = true ↔ 2 ≤ a.toNat + b.toNat + c.toNat := by
  decide

/-- Settles O39: both formulas act bit by bit. -/
theorem chooseAndMajorityBitByBit : Obligations.ChooseAndMajorityBitByBit :=
  fun x y z i hi => ⟨ch_getLsbD x y z hi, by rw [maj_getLsbD]; exact majority_iff _ _ _⟩

end Sys2Proof.Machine

/-! ## The constants (R140, R141) -/

namespace Sys2Proof.Machine

/-- Trial division finds the 80 primes from 2 to 409. -/
theorem firstPrimes_eq : firstPrimes =
    [2, 3, 5, 7, 11, 13, 17, 19, 23, 29, 31, 37, 41, 43, 47, 53, 59, 61, 67, 71, 73, 79, 83, 89, 97, 101, 103,
     107, 109, 113, 127, 131, 137, 139, 149, 151, 157, 163, 167, 173, 179, 181, 191, 193, 197, 199, 211, 223,
     227, 229, 233, 239, 241, 251, 257, 263, 269, 271, 277, 281, 283, 293, 307, 311, 313, 317, 331, 337, 347,
     349, 353, 359, 367, 373, 379, 383, 389, 397, 401, 409] := by
  decide +kernel

/-- `RootFraction` with a whole part below 8 (7^3 < 409 < 8^3), as a check that runs. -/
def isRootFraction (r p : Nat) (w : Word) : Bool :=
  (List.range 8).any fun n =>
    (n * 2 ^ 64 + w.toNat) ^ r ≤ p * 2 ^ (64 * r) && p * 2 ^ (64 * r) < (n * 2 ^ 64 + w.toNat + 1) ^ r

theorem rootFraction_of_isRootFraction {r p : Nat} {w : Word} (h : isRootFraction r p w = true) :
    RootFraction r p w := by
  simp only [isRootFraction, List.any_eq_true, Bool.and_eq_true, decide_eq_true_eq] at h
  obtain ⟨n, -, hbounds⟩ := h
  exact ⟨n, hbounds⟩

theorem isRootFraction_roundConstant :
    ∀ t : Fin 80, isRootFraction 3 (firstPrimes.getD t.val 0) (roundConstant t.val) = true := by
  rw [firstPrimes_eq]
  decide

theorem isRootFraction_initialHash :
    ∀ k : Fin 8, isRootFraction 2 (firstPrimes.getD k.val 0) initialHash[k] = true := by
  rw [firstPrimes_eq]
  decide

/-- Settles O40: the bounds of each constant are compared as natural numbers, raised to the root's power. -/
theorem constantsAreRootFractions : Obligations.ConstantsAreRootFractions := by
  refine ⟨?_, fun t => rootFraction_of_isRootFraction (isRootFraction_roundConstant t),
    fun k => rootFraction_of_isRootFraction (isRootFraction_initialHash k)⟩
  rw [firstPrimes_eq]
  rfl

end Sys2Proof.Machine

/-! ## A compression in progress (R127, R147 to R151) -/

namespace Sys2Proof.Machine

/-! ### Round by round (R147, R150) -/

variable {s s' : State} {H0 : Vector Word 8} {M0 : Vector Word 16}

/-- A compression in progress looks at the reset input, BUSY, t, H, a..h and Wwin alone. -/
theorem State.Compressing.congr (h : s.Compressing H0 M0) (hr : s'.resetIn = s.resetIn) (hb : s'.busy = s.busy)
    (ht : s'.t = s.t) (hH : s'.H = s.H) (hv : s'.wv = s.wv) (hw : s'.Wwin = s.Wwin) : s'.Compressing H0 M0 where
  noReset := hr.trans h.noReset
  busy := hb.trans h.busy
  counter := by rw [ht]; exact h.counter
  hash := hH.trans h.hash
  vars := by rw [hv, ht]; exact h.vars
  window := by rw [hw, ht]; exact h.window

/-- COMPRESS loads a..h from H and the window from M: no round has run yet (R146). -/
theorem State.compressing_startCompression (hr : s.resetIn = false) : s.startCompression.Compressing s.H s.M where
  noReset := hr
  busy := rfl
  counter := Nat.zero_le 80
  hash := rfl
  vars := rfl
  window := windowHolds_load s.M

/-- A round below t = 80 does not carry out of the counter. -/
theorem State.runRound_t_toNat (ht : s.t.toNat < 80) : s.runRound.t.toNat = s.t.toNat + 1 := by
  rw [State.runRound_t]
  bv_omega

/-- ROUND runs round t with W[t], which the window returns as SchedWord(t) (R127, R147). -/
theorem State.Compressing.runRound (h : s.Compressing H0 M0) (ht : s.t.toNat < 80) :
    s.runRound.Compressing H0 M0 where
  noReset := h.noReset
  busy := h.busy
  counter := by rw [State.runRound_t_toNat ht]; exact ht
  hash := h.hash
  vars := by rw [State.runRound_t_toNat ht, State.runRound_wv, h.window.schedWord_eq ht, h.vars]; rfl
  window := by rw [State.runRound_t_toNat ht]; exact h.window.succ ht

/-- After 80 rounds FINALIZE leaves compress(H0, M0) (R148, R150). -/
theorem State.Compressing.runFinalize_H (h : s.Compressing H0 M0) (ht : s.t.toNat = 80) :
    s.runFinalize.H = compressBlock H0 M0 := by
  rw [State.runFinalize_H, h.vars, h.hash, ht, compressBlock]

/-! ### A step of a state with a compression in progress -/

/-- FINALIZE of (H0, M0) is done: the block is idle again with the result (R148). -/
structure State.Compressed (s : State) (H0 : Vector Word 8) (M0 : Vector Word 16) : Prop where
  noReset : s.resetIn = false
  idle : s.busy = false
  done : s.done = true
  hash : s.H = compressBlock H0 M0

/-- The engine's step runs one round more, or finishes at t = 80. -/
theorem State.Compressing.engineStep (h : s.Compressing H0 M0) :
    (if s.t.toNat = 80 then s.runFinalize else s.runRound).draw.Compressing H0 M0 ∨
      (if s.t.toNat = 80 then s.runFinalize else s.runRound).draw.Compressed H0 M0 := by
  split_ifs with ht
  · exact .inr ⟨h.noReset, rfl, rfl, h.runFinalize_H ht⟩
  · have hlt : s.t.toNat < 80 := Nat.lt_of_le_of_ne h.counter ht
    exact .inl ((h.runRound hlt).congr rfl rfl rfl rfl rfl rfl)

/-- The bookkeeping after a host step leaves the compression alone. -/
theorem State.Compressing.passTurn (h : s.Compressing H0 M0) (before : State) (rest : List HostEvent) :
    (before.passTurn s rest).Compressing H0 M0 :=
  h.congr (by simp) (by simp) (by simp) (by simp) (by simp) (by simp)

/-- A host transaction cannot disturb the compression; only reset ends it (R175, R220, R225). -/
theorem State.Compressing.hostStep {ev : HostEvent} {rest : List HostEvent} (h : s.Compressing H0 M0)
    (hstep : hostStep ev rest s = .next s') : s'.Compressing H0 M0 ∨ s'.resetIn = true := by
  obtain ⟨i, s1, rest', hi, hexec, rfl, -⟩ | ⟨-, rfl⟩ | ⟨-, rfl⟩ := hostStep_cases hstep
  · obtain ⟨hr, -, -, -⟩ := exec_host_keeps hi hexec
    obtain ⟨hH, hv, hw, ht, hb, -⟩ := exec_host_busy_keeps hi h.busy hexec
    exact .inl ((h.congr hr (hb.trans h.busy.symm) ht hH hv hw).passTurn s rest')
  · exact .inr rfl
  · exact .inl (h.passTurn s rest)

theorem State.Compressing.step (h : s.Compressing H0 M0) (hstep : step s = .next s') :
    s'.Compressing H0 M0 ∨ s'.Compressed H0 M0 ∨ s'.resetIn = true := by
  obtain ⟨hr, -⟩ | ⟨-, rfl⟩ | ⟨-, ev, rest, -, hhost⟩ | ⟨-, -, -, rfl⟩ := step_cases hstep
  · simp [h.noReset] at hr
  · exact h.engineStep.imp_right .inl
  · exact (h.hostStep hhost).imp_right .inr
  · exact .inl h

/-- Settles O43: COMPRESS starts the compression, and each kind of step keeps it, finishes it or is reset. -/
theorem compressionSurvivesEveryStep : Obligations.CompressionSurvivesEveryStep := by
  refine ⟨fun s ign hr hb => ⟨s.startCompression, by simp [hb], s.compressing_startCompression hr⟩,
    fun s s' H0 M0 h hstep => ?_⟩
  obtain hc | ⟨hr, hb, hd, hH⟩ | hr := h.step hstep
  · exact .inl hc
  · exact .inr (.inl ⟨hr, hb, hd, hH⟩)
  · exact .inr (.inr hr)

/-! ### With no reset among the host's events -/

/-- No event comes to the host's list. -/
theorem mem_host_of_step {ev : HostEvent} (hstep : step s = .next s') (hev : ev ∈ s'.host) : ev ∈ s.host := by
  obtain ⟨-, ⟨-, rfl⟩ | ⟨rest, ⟨hh, rfl⟩ | ⟨hh, rfl⟩⟩⟩ | ⟨-, rfl⟩ | ⟨-, ev', rest, hh, hhost⟩ | ⟨-, -, -, rfl⟩ :=
    step_cases hstep
  · exact hev
  · rw [hh]; exact List.mem_cons_of_mem _ hev
  · rw [hh]; exact List.mem_cons_of_mem _ hev
  · split_ifs at hev <;> exact hev
  · rw [hh]
    obtain ⟨i, s1, rest', -, -, rfl, hrest⟩ | ⟨-, rfl⟩ | ⟨-, rfl⟩ := hostStep_cases hhost
    · exact hrest ev (by simpa using hev)
    · exact List.mem_cons_of_mem _ hev
    · exact List.mem_cons_of_mem _ (by simpa using hev)
  · exact hev

/-- The reset input rises by the host's event only (R220). -/
theorem resetIn_of_step (hstep : step s = .next s') (hr : s.resetIn = false)
    (hno : ∀ ev ∈ s.host, ev ≠ .assertReset) : s'.resetIn = false := by
  obtain ⟨hr', -⟩ | ⟨-, rfl⟩ | ⟨-, ev, rest, hh, hhost⟩ | ⟨-, -, -, rfl⟩ := step_cases hstep
  · simp [hr] at hr'
  · split_ifs <;> exact hr
  · obtain ⟨i, s1, rest', -, hexec, rfl, -⟩ | ⟨rfl, -⟩ | ⟨-, rfl⟩ := hostStep_cases hhost
    · rw [State.passTurn_resetIn, (effect_of_exec hexec).resetIn, hr]
    · exact absurd rfl (hno _ (by simp [hh]))
    · rw [State.passTurn_resetIn, hr]
  · exact hr

/-- Settles O45, by induction on the number of steps: each step that does not finish leaves the compression in
progress, and the one that finishes is the last, because it leaves BUSY = 0. -/
theorem firstIdleStateHoldsTheResult : Obligations.FirstIdleStateHoldsTheResult := by
  intro n
  induction n with
  | zero =>
    intro s s' H0 M0 h _ _ hrun hidle
    obtain rfl : s = s' := Host.Outcome.next.inj hrun
    simp [h.busy] at hidle
  | succ n ih =>
    intro s s' H0 M0 h hno hbusy hrun hidle
    obtain ⟨s1, hstep, hrun1⟩ := step_of_runSteps hrun
    have hbusy1 : ∀ k sk, k < n → runSteps k s1 = .next sk → sk.busy = true := fun k sk hk hsk =>
      hbusy (k + 1) sk (by omega) ((runSteps_of_next k hstep).trans hsk)
    obtain hc | hdone | hr := h.step hstep
    · exact ih s1 s' H0 M0 hc (fun ev hev => hno ev (mem_host_of_step hstep hev)) hbusy1 hrun1 hidle
    · cases n with
      | zero =>
        obtain rfl : s1 = s' := Host.Outcome.next.inj hrun1
        exact ⟨hdone.hash, hdone.done⟩
      | succ n =>
        have : s1.busy = true := hbusy1 0 s1 (Nat.succ_pos n) rfl
        simp [hdone.idle] at this
    · simp [resetIn_of_step hstep h.noReset hno] at hr

/-! ### With the host silent (R151) -/

/-- What no engine step writes (R147, R148). -/
structure State.EngineKeeps (s s' : State) : Prop where
  host : s'.host = s.host
  message : s'.M = s.M
  err : s'.err = s.err
  errcode : s'.errcode = s.errcode
  reads : s'.reads = s.reads

theorem State.EngineKeeps.trans {s'' : State} (h : s.EngineKeeps s') (h' : s'.EngineKeeps s'') : s.EngineKeeps s'' :=
  ⟨h'.host.trans h.host, h'.message.trans h.message, h'.err.trans h.err, h'.errcode.trans h.errcode,
    h'.reads.trans h.reads⟩

theorem State.engineKeeps_runRound : s.EngineKeeps s.runRound.draw := ⟨rfl, rfl, rfl, rfl, rfl⟩

theorem State.engineKeeps_runFinalize : s.EngineKeeps s.runFinalize.draw := ⟨rfl, rfl, rfl, rfl, rfl⟩

/-- While a compression runs and the host has nothing to do, the step is the engine's (R184). -/
theorem State.Compressing.step_of_silent (h : s.Compressing H0 M0) (hh : s.host = []) :
    Machine.step s = .next (if s.t.toNat = 80 then s.runFinalize else s.runRound).draw :=
  step_of_engineTurn ⟨s.engineFetch_isSome.2 ⟨h.noReset, h.busy, h.counter⟩, .inr hh⟩

/-- The first 80 steps after COMPRESS are the 80 rounds. -/
theorem State.Compressing.runSteps_of_silent (h : s.Compressing H0 M0) (hh : s.host = []) (h0 : s.t = 0) {k : Nat}
    (hk : k ≤ 80) :
    ∃ sk, runSteps k s = .next sk ∧ sk.Compressing H0 M0 ∧ sk.t.toNat = k ∧ s.EngineKeeps sk := by
  induction k with
  | zero => exact ⟨s, rfl, h, by rw [h0]; rfl, rfl, rfl, rfl, rfl, rfl⟩
  | succ k ih =>
    obtain ⟨sk, hrun, hc, ht, hkeep⟩ := ih (by omega)
    have hlt : sk.t.toNat < 80 := by omega
    have hstep := hc.step_of_silent (hkeep.host.trans hh)
    rw [if_neg hlt.ne] at hstep
    refine ⟨sk.runRound.draw, (runSteps_last hrun).trans hstep, (hc.runRound hlt).congr rfl rfl rfl rfl rfl rfl, ?_,
      hkeep.trans State.engineKeeps_runRound⟩
    rw [State.draw_t, State.runRound_t_toNat hlt, ht]

/-- Settles O44: 80 rounds, then FINALIZE. -/
theorem compressionTakesEightyOneSteps : Obligations.CompressionTakesEightyOneSteps := by
  intro s s1 ign hr hb hh hexec
  obtain rfl : s.startCompression = s1 := by simpa [hb] using hexec
  have hc := s.compressing_startCompression hr
  refine ⟨fun k hk => ?_, ?_⟩
  · obtain ⟨sk, hrun, hck, ht, -⟩ := hc.runSteps_of_silent hh rfl (Nat.le_of_lt_succ hk)
    exact ⟨sk, hrun, hck.busy, ht, hck.hash⟩
  · obtain ⟨sk, hrun, hck, ht, hkeep⟩ := hc.runSteps_of_silent hh rfl (Nat.le_refl 80)
    have hstep := hck.step_of_silent (hkeep.host.trans hh)
    rw [if_pos ht] at hstep
    obtain ⟨-, hM, herr, hcode, hreads⟩ := hkeep.trans sk.engineKeeps_runFinalize
    exact ⟨_, (runSteps_last hrun).trans hstep, hck.runFinalize_H ht, rfl, rfl, rfl, hM, herr, hcode, hreads,
      congrArg (!·) herr⟩

end Sys2Proof.Machine

/-! ## Who writes H (R149), and what a host transaction may write during a compression (R225) -/

namespace Sys2Proof.Machine

variable {s s' : State}

/-- An instruction that writes H is an accepted INIT or FINALIZE at t = 80. -/
theorem Effect.hash {i : Instr} (h : Effect s i s') :
    s'.H = s.H ∨ ((∃ ign, i = .init ign) ∧ s.busy = false ∧ s'.H = initialHash) ∨
      (i = .finalize ∧ s.busy = true ∧ s.t = 80) := by
  cases h with
  | ignored | answered | messageWritten | compressAccepted | dropped | reserved | round => exact .inl rfl
  | initAccepted ign idle => exact .inr (.inl ⟨⟨ign, rfl⟩, idle, rfl⟩)
  | finalized busy counter => exact .inr (.inr ⟨rfl, busy, counter⟩)

/-- A host step writes H by INIT with BUSY = 0 or by reset. -/
theorem hash_of_hostStep {ev : HostEvent} {rest : List HostEvent} (h : hostStep ev rest s = .next s') :
    s'.H = s.H ∨ s'.H = initialHash ∧ (s.busy = false ∨ s'.resetIn = true) := by
  obtain ⟨i, s1, rest', hi, hexec, rfl, -⟩ | ⟨-, rfl⟩ | ⟨-, rfl⟩ := hostStep_cases h
  · rw [State.passTurn_H]
    obtain hH | ⟨-, hb, hH⟩ | ⟨rfl, -⟩ := (effect_of_exec hexec).hash
    · exact .inl hH
    · exact .inr ⟨hH, .inl hb⟩
    · cases hi
  · exact .inr ⟨rfl, .inr rfl⟩
  · exact .inl (State.passTurn_H s s rest)

/-- Settles O50: the instructions effect by effect, and the steps through the instructions they run. -/
theorem hashWrittenOnlyByInitAndFinalize : Obligations.HashWrittenOnlyByInitAndFinalize := by
  refine ⟨fun i s s' h => (effect_of_exec h).hash, fun s s' h => ?_⟩
  obtain ⟨hr, hreset⟩ | ⟨⟨hf, -⟩, rfl⟩ | ⟨-, ev, rest, -, hhost⟩ | ⟨-, -, -, rfl⟩ := step_cases h
  · have hH : s'.H = initialHash := by
      obtain ⟨-, rfl⟩ | ⟨rest, ⟨-, rfl⟩ | ⟨-, rfl⟩⟩ := hreset <;> rfl
    exact .inr (.inl ⟨hH, .inr (.inl hr)⟩)
  · obtain ⟨hr, hb, -⟩ := s.engineFetch_isSome.1 hf
    split_ifs with ht
    · exact .inr (.inr ⟨hr, hb, BitVec.eq_of_toNat_eq ht, rfl, rfl⟩)
    · exact .inl rfl
  · obtain hH | ⟨hH, hb | hr⟩ := hash_of_hostStep hhost
    · exact .inl hH
    · exact .inr (.inl ⟨hH, .inl hb⟩)
    · exact .inr (.inl ⟨hH, .inr (.inr hr)⟩)
  · exact .inl rfl

/-- Settles O54, effect by effect: INIT and COMPRESS are dropped with BUSY = 1, and the engine's instructions are not
the host's. -/
theorem hostCannotDisturbACompression : Obligations.HostCannotDisturbACompression := by
  intro i s s' hi hb h
  cases effect_of_exec h with
  | ignored | answered | messageWritten | dropped | reserved => rfl
  | initAccepted _ idle | compressAccepted _ idle => simp [hb] at idle
  | round _ isRound => obtain ⟨t, rfl | rfl⟩ := isRound <;> cases hi
  | finalized => cases hi

end Sys2Proof.Machine

/-! ## No step faults (R151, R204) -/

namespace Sys2Proof.Machine

/-- Every transaction the host makes completes, and one it may not make is refused. -/
theorem hostStep_ne_fault (ev : HostEvent) (rest : List HostEvent) (s : State) (f : Fault) :
    hostStep ev rest s ≠ .fault f := by
  cases ev with
  | access x =>
    cases hx : x.fetch with
    | ok i =>
      obtain ⟨s1, hs1⟩ := hostInstructionsAlwaysComplete i s (isHost_of_fetch hx)
      simp [hostStep, hx, hs1]
    | error r => simp [hostStep, hx]
  | poll => simp [hostStep, pollAccess_fetch]
  | assertReset | releaseReset => simp [hostStep]

theorem resetStep_ne_fault (s : State) (f : Fault) : resetStep s ≠ .fault f := by
  unfold resetStep
  split <;> simp

theorem step_of_resetIn {s : State} (hr : s.resetIn = true) : step s = resetStep s := by
  simp [step, advance, hr]

/-- Where neither agent can move nothing changes (R212). -/
theorem step_of_nothing_to_do {s : State} (hr : s.resetIn = false) (hf : s.engineFetch = none) (hh : s.host = []) :
    step s = .next s := by
  simp [step, advance, runningStep, hr, hf, hh]

/-- Settles O57: under reset, on the engine's turn, on the host's turn, and where neither can move. -/
theorem stepNeverFaults : Obligations.StepNeverFaults := by
  intro s f
  cases hr : s.resetIn with
  | true =>
    rw [step_of_resetIn hr]
    exact resetStep_ne_fault s f
  | false =>
    by_cases he : s.engineTurn
    · simp [step_of_engineTurn he]
    · have hturn : s.engineFetch = none ∨ s.patience ≠ 0 ∧ s.host ≠ [] := by
        simpa [State.engineTurn, imp_iff_not_or] using he
      cases hh : s.host with
      | nil =>
        have hf : s.engineFetch = none := hturn.resolve_right fun h => h.2 hh
        simp [step_of_nothing_to_do hr hf hh]
      | cons ev rest =>
        rw [step_of_hostTurn ⟨hr, hturn.imp_right And.left⟩ hh]
        exact hostStep_ne_fault ev rest s f

end Sys2Proof.Machine

/-! ## The engine is not starved (R184) -/

namespace Sys2Proof.Machine

variable {s s' : State}

/-- The engine's waiting step encodes to the state word that selected it (R80). -/
theorem State.encode_of_engineFetch {i : Instr} (h : s.engineFetch = some i) : encode i = .engine s.engineE := by
  unfold State.engineFetch at h
  split_ifs at h
  split at h <;> cases h
  exact (encode_of_decode_engine ‹_›).2

/-- Two states in which the same step waits have the same counter. -/
theorem State.t_eq_of_engineFetch_eq (hf : s.engineFetch.isSome = true) (h : s'.engineFetch = s.engineFetch) :
    s'.t = s.t := by
  obtain ⟨i, hi⟩ := Option.isSome_iff_exists.1 hf
  have hE : s'.engineE = s.engineE :=
    Encoded.engine.inj ((State.encode_of_engineFetch (h.trans hi)).symm.trans (State.encode_of_engineFetch hi))
  simpa [State.engineE] using congrArg engineT hE

/-- Once the engine has taken its step another step waits, or none. -/
theorem engineFetch_ne_of_engineTurn (ht : s.engineTurn) :
    ∃ s', step s = .next s' ∧ s'.engineFetch ≠ s.engineFetch := by
  refine ⟨_, step_of_engineTurn ht, fun h => ?_⟩
  obtain ⟨hf, -⟩ := ht
  have hsame := State.t_eq_of_engineFetch_eq hf h
  split_ifs at hsame with h80
  · rw [State.draw_t, State.runFinalize_t] at hsame
    simp [← hsame] at h80
  · rw [State.draw_t, State.runRound_t] at hsame
    bv_omega

/-- A host step while the engine waits uses up one of the host's turns, unless it asserts reset. -/
theorem patience_of_hostStep {ev : HostEvent} {rest : List HostEvent} (hf : s.engineFetch.isSome = true)
    (h : hostStep ev rest s = .next s') : s'.patience = s.patience - 1 ∨ s'.engineFetch = none := by
  obtain ⟨i, s1, rest', -, -, rfl, -⟩ | ⟨-, rfl⟩ | ⟨-, rfl⟩ := hostStep_cases h
  · rw [State.passTurn_of_engine _ _ _ hf]; exact .inl rfl
  · exact .inr (by simp [State.engineFetch])
  · rw [State.passTurn_of_engine _ _ _ hf]; exact .inl rfl

/-- Within `k` steps the run is refused or the engine's waiting step has changed. -/
def State.EngineMovesWithin (s : State) (k : Nat) : Prop :=
  ∃ n, 0 < n ∧ n ≤ k ∧
    ((∃ r, runSteps n s = .refused r) ∨ ∃ s', runSteps n s = .next s' ∧ s'.engineFetch ≠ s.engineFetch)

theorem State.engineMovesWithin_of_refused {r : Refusal} (h : step s = .refused r) (k : Nat) :
    s.EngineMovesWithin (k + 1) :=
  ⟨1, Nat.one_pos, by omega, .inl ⟨r, runSteps_of_refused 0 h⟩⟩

theorem State.engineMovesWithin_of_next (hstep : step s = .next s') (hne : s'.engineFetch ≠ s.engineFetch) (k : Nat) :
    s.EngineMovesWithin (k + 1) :=
  ⟨1, Nat.one_pos, by omega, .inr ⟨s', runSteps_of_next 0 hstep, hne⟩⟩

theorem State.EngineMovesWithin.of_step {k : Nat} (h : s'.EngineMovesWithin k) (hstep : step s = .next s')
    (hsame : s'.engineFetch = s.engineFetch) : s.EngineMovesWithin (k + 1) := by
  obtain ⟨n, -, hle, h⟩ := h
  rw [← runSteps_of_next n hstep, hsame] at h
  exact ⟨n + 1, n.succ_pos, Nat.succ_le_succ hle, h⟩

theorem State.engineMovesWithin_of_engineTurn (ht : s.engineTurn) (k : Nat) : s.EngineMovesWithin (k + 1) := by
  obtain ⟨s', hstep, hne⟩ := engineFetch_ne_of_engineTurn ht
  exact State.engineMovesWithin_of_next hstep hne k

/-- Settles O46, by induction on `patience`: where the host has no event or no turn left the engine moves, and a step
of the host that leaves the engine waiting lowers `patience`. -/
theorem engineIsWeaklyFair : Obligations.EngineIsWeaklyFair := by
  intro s hf
  change s.EngineMovesWithin (s.patience + 1)
  induction hp : s.patience generalizing s with
  | zero => exact State.engineMovesWithin_of_engineTurn ⟨hf, .inl hp⟩ 0
  | succ p ih =>
    cases hh : s.host with
    | nil => exact State.engineMovesWithin_of_engineTurn ⟨hf, .inr hh⟩ (p + 1)
    | cons ev rest =>
      obtain ⟨hr, -, -⟩ := s.engineFetch_isSome.1 hf
      have hturn : s.hostTurn := ⟨hr, .inr (by omega)⟩
      cases hstep : step s with
      | fault f => exact absurd hstep (stepNeverFaults s f)
      | refused r => exact State.engineMovesWithin_of_refused hstep (p + 1)
      | next s' =>
        by_cases hsame : s'.engineFetch = s.engineFetch
        · rw [← hsame] at hf
          obtain hp' | hnone := patience_of_hostStep (hsame ▸ hf) ((step_of_hostTurn hturn hh).symm.trans hstep)
          · exact (ih s' hf (by omega)).of_step hstep hsame
          · simp [hnone] at hf
        · exact State.engineMovesWithin_of_next hstep hsame (p + 1)

end Sys2Proof.Machine

/-! ## The words of STATUS under the invariant (R177) -/

namespace Sys2Proof.Machine

/-- The error record is one of three (R27, R76). -/
theorem State.Inv.errorRecord {s : State} (hs : s.Inv) :
    s.err = false ∧ s.errcode = 0 ∨ s.err = true ∧ (s.errcode = 1 ∨ s.errcode = 2) := by
  cases herr : s.err with
  | false => exact .inl ⟨rfl, hs.noError herr⟩
  | true => exact .inr ⟨rfl, hs.errorCode herr⟩

/-- BUSY and DONE are never both 1. -/
theorem State.Inv.busyOrDone {s : State} (hs : s.Inv) :
    s.busy = true ∧ s.done = false ∨ s.busy = false ∧ s.done = true ∨ s.busy = false ∧ s.done = false := by
  cases hdone : s.done with
  | false => cases s.busy <;> simp
  | true => exact .inr (.inl ⟨hs.finished hdone, rfl⟩)

/-- The reset state with the four fields of STATUS set. -/
def State.ofStatus (busy done err : Bool) (errcode : BitVec 4) : State :=
  { State.reset with busy := busy, done := done, err := err, errcode := errcode }

/-- The invariant of such a state asks for no more than what R32 says of the four fields. -/
theorem State.inv_ofStatus (busy done err : Bool) (errcode : BitVec 4)
    (h : (done = true → busy = false) ∧ (err = false → errcode = 0) ∧ (err = true → errcode = 1 ∨ errcode = 2) ∧
      (errcode = 1 → busy = false → done = true)) : (State.ofStatus busy done err errcode).Inv := by
  obtain ⟨hfinished, hnoError, herrorCode, hbusyError⟩ := h
  exact ⟨fun _ => rfl, fun _ => Nat.zero_le 80, hfinished, hnoError, herrorCode, hbusyError, nofun⟩

/-- Settles O49: BUSY and DONE allow three pairs, the error record three, and of the nine one, code 1 on an idle block
that has not finished, breaks the invariant; each of the other eight is a state's. -/
theorem statusHasEightValues : Obligations.StatusHasEightValues := by
  refine ⟨fun s hs => ?_, ?_⟩
  · obtain ⟨he, hc⟩ | ⟨he, hc | hc⟩ := hs.errorRecord
    · obtain ⟨hb, hd⟩ | ⟨hb, hd⟩ | ⟨hb, hd⟩ := hs.busyOrDone <;> simp [State.statusWord, hb, hd, he, hc]
    · obtain ⟨hb, hd⟩ | ⟨hb, hd⟩ | ⟨hb, hd⟩ := hs.busyOrDone
      · simp [State.statusWord, hb, hd, he, hc]
      · simp [State.statusWord, hb, hd, he, hc]
      · exact absurd (hs.busyError hc hb) (by simp [hd])
    · obtain ⟨hb, hd⟩ | ⟨hb, hd⟩ | ⟨hb, hd⟩ := hs.busyOrDone <;> simp [State.statusWord, hb, hd, he, hc]
  · simp only [List.forall_mem_cons]
    exact ⟨⟨_, State.inv_ofStatus false false false 0 (by decide), rfl⟩,
      ⟨_, State.inv_ofStatus true false false 0 (by decide), rfl⟩,
      ⟨_, State.inv_ofStatus false true false 0 (by decide), rfl⟩,
      ⟨_, State.inv_ofStatus true false true 1 (by decide), rfl⟩,
      ⟨_, State.inv_ofStatus false true true 1 (by decide), rfl⟩,
      ⟨_, State.inv_ofStatus false false true 2 (by decide), rfl⟩,
      ⟨_, State.inv_ofStatus true false true 2 (by decide), rfl⟩,
      ⟨_, State.inv_ofStatus false true true 2 (by decide), rfl⟩,
      nofun⟩

end Sys2Proof.Machine

/-! ## What a register's transaction decodes to (R71, R73) -/

namespace Sys2Proof

/-- A read decodes to the instruction of its slot. -/
theorem decode_read (slot : BitVec 5) {data : Word} {i : Instr} (h : decodeRead slot data = i) :
    decode (.host (hostWord false (slotOff slot) data)) = .ok i :=
  (decode_hostWord false slot data).trans (congrArg Except.ok h)

/-- A write decodes to the instruction of its slot. -/
theorem decode_write (slot : BitVec 5) {data : Word} {i : Instr} (h : decodeWrite slot data = i) :
    decode (.host (hostWord true (slotOff slot) data)) = .ok i :=
  (decode_hostWord true slot data).trans (congrArg Except.ok h)

/-- The offset of H[k]. -/
theorem slotOff_hSlot (k : Fin 8) : slotOff (hSlot k) = BitVec.ofNat 8 (0x40 + 8 * k.val) := by
  revert k; decide

/-- The offset of M[j]. -/
theorem slotOff_mSlot (j : Fin 16) : slotOff (mSlot j) = BitVec.ofNat 8 (0x80 + 8 * j.val) := by
  revert j; decide

theorem dataCMD_toNat (v : Word) : (dataCMD v).toNat = v.toNat % 16 := by
  simp [dataCMD]

theorem decode_initWord (ign : BitVec 60) :
    decode (.host (hostWord true 0x00 (commandData ign 1))) = .ok (.init ign) :=
  decode_write 0 (decodeCommand_commandData ign 1)

theorem decode_compressWord (ign : BitVec 60) :
    decode (.host (hostWord true 0x00 (commandData ign 2))) = .ok (.compress ign) :=
  decode_write 0 (decodeCommand_commandData ign 2)

end Sys2Proof

/-! ## The commands (R170 to R175) -/

namespace Sys2Proof.Machine

/-- R170's order, reserved codes before the busy check, over the sixteen command codes. -/
theorem exec_decodeCommand (v : Word) (s : State) :
    exec (decodeCommand v) s = .next (
      if 3 ≤ v.toNat % 16 then s.setError reservedCmd
      else if v.toNat % 16 = 0 then s
      else if s.busy then s.setError cmdWhileBusy
      else if v.toNat % 16 = 1 then s.startMessage
      else s.startCompression) := by
  simp only [decodeCommand, dataCMD_toNat]
  generalize v.toNat % 16 = cmd
  by_cases hrsvd : 3 ≤ cmd
  · rw [if_pos hrsvd, if_neg (by omega), if_neg (by omega), if_neg (by omega)]
    split_ifs <;> rfl
  · rw [if_neg hrsvd]
    obtain rfl | rfl | rfl : cmd = 0 ∨ cmd = 1 ∨ cmd = 2 := by omega
    · rfl
    · exact exec_init _ s
    · exact exec_compress _ s

/-- Settles O17: the CTRL slot's write is a command. -/
theorem controlWriteDispatch : Obligations.ControlWriteDispatch :=
  fun s v => ⟨_, decode_hostWord true 0 v, exec_decodeCommand v s⟩

/-- Settles O18: CMD = 0 is NOP, whatever DATA[63:4]. -/
theorem nopChangesNothing : Obligations.NopChangesNothing := by
  refine ⟨exec_nop, fun v hv => ⟨dataIgnored v, decode_write 0 ?_⟩⟩
  exact if_pos ((dataCMD_toNat v).trans hv)

/-- ERR is cleared by an accepted INIT alone (R172, R204). -/
theorem Effect.init_of_err_cleared {i : Instr} {s s' : State} (h : Effect s i s') (herr : s.err = true)
    (hclear : s'.err = false) : s.busy = false ∧ ∃ ign, i = .init ign := by
  cases h with
  | ignored | answered | messageWritten | compressAccepted | round | finalized => simp [herr] at hclear
  | dropped | reserved => cases hclear
  | initAccepted ign idle => exact ⟨idle, ign, rfl⟩

/-- Settles O19: INIT answers `startMessage` with BUSY = 0, which is idempotent and leaves BUSY = 0. -/
theorem initStartsANewMessage : Obligations.InitStartsANewMessage := by
  refine ⟨fun ign s => ⟨decode_initWord ign, exec_init ign s⟩, fun ign1 ign2 s s1 hb h => ?_,
    fun i s s' h => (effect_of_exec h).init_of_err_cleared⟩
  obtain rfl : s.startMessage = s1 := by simpa [hb] using h
  rw [exec_init, State.startMessage_busy, hb]
  rfl

/-- Settles O21: CMD = 3..15 falls into one of the three reserved rows, each of which answers `setError`. -/
theorem reservedCommandRecordsItsError : Obligations.ReservedCommandRecordsItsError := by
  refine fun cmd ign s => ⟨fun h3 => decode_write 0 ?_, rfl, rfl, rfl⟩
  refine (decodeCommand_commandData ign cmd).trans ?_
  rw [if_neg (by omega), if_neg (by omega), if_neg (by omega)]

/-- Settles O22: both commands check BUSY and answer `setError`. -/
theorem commandWhileBusyDropped : Obligations.CommandWhileBusyDropped := by
  intro ign s hb
  have hinit : exec (.init ign) s = .next (s.setError cmdWhileBusy) := by simp [hb]
  have hcompress : exec (.compress ign) s = .next (s.setError cmdWhileBusy) := by simp [hb]
  exact ⟨decode_initWord ign, decode_compressWord ign, hinit, hcompress⟩

end Sys2Proof.Machine

/-! ## Register by register (R176 to R183) -/

namespace Sys2Proof.Machine

/-- Settles O26: CTRL and the two reserved rows, read and written. -/
theorem controlAndReservedAccesses : Obligations.ControlAndReservedAccesses := fun _ _ _ =>
  ⟨decode_read 0 decodeRead_ctrl, rfl,
    fun h2 h3 => ⟨decode_read _ (decodeRead_rsvd10to18 ⟨h2, h3⟩), decode_write _ (decodeWrite_rsvd10to18 ⟨h2, h3⟩)⟩,
    fun h4 h7 => ⟨decode_read _ (decodeRead_rsvd20to38 ⟨h4, h7⟩), decode_write _ (decodeWrite_rsvd20to38 ⟨h4, h7⟩)⟩,
    rfl, rfl, rfl, rfl⟩

/-- While BUSY = 1 only FINALIZE writes H (R149, R179). -/
theorem Effect.hash_of_busy {i : Instr} {s s' : State} (h : Effect s i s') (hb : s.busy = true)
    (hi : i ≠ .finalize) : s'.H = s.H := by
  obtain hH | ⟨-, idle, -⟩ | ⟨hfin, -⟩ := h.hash
  · exact hH
  · simp [hb] at idle
  · exact absurd hfin hi

/-- Settles O28: the read returns H[k], and H is written by FINALIZE, INIT and reset. -/
theorem hashReadReturnsTheWord : Obligations.HashReadReturnsTheWord := by
  refine fun k data s =>
    ⟨?_, rfl, fun i s' hb hi h => (effect_of_exec h).hash_of_busy hb hi, rfl, fun ign s' hb h => ?_⟩
  · rw [← slotOff_hSlot]
    exact decode_read _ (decodeRead_hSlot k)
  · obtain rfl : s.startMessage = s' := by simpa [hb] using h
    rfl

/-- A message word after a write of a message word (R182). -/
theorem State.setM_M_getElem (s : State) (j k : Fin 16) (v : Word) :
    (s.setM k v).M[j] = if j = k then v else s.M[j] := by
  simp only [State.setM_M, Fin.getElem_fin, Vector.getElem_set, Fin.ext_iff, eq_comm]

/-- Settles O29: the read returns M[j], which is what the last write of it left. -/
theorem messageReadReturnsTheLastWrite : Obligations.MessageReadReturnsTheLastWrite := by
  refine fun j data s => ⟨?_, rfl, Vector.getElem_replicate j.isLt, fun k v s' h => ?_⟩
  · rw [← slotOff_mSlot]
    exact decode_read _ (decodeRead_mSlot j)
  · obtain rfl : s.setM k v = s' := by simpa using h
    rw [exec_rdM, State.setM_M_getElem]
    rfl

/-- Settles O30: the write is `setM`, which leaves every other word and field. -/
theorem messageWriteSetsOneWord : Obligations.MessageWriteSetsOneWord := by
  refine fun j v s => ⟨?_, s.setM j v, rfl, ?_, fun k hk => ?_, rfl⟩
  · rw [← slotOff_mSlot]
    exact decode_write _ (decodeWrite_mSlot j)
  · rw [State.setM_M_getElem, if_pos rfl]
  · rw [State.setM_M_getElem, if_neg hk]

/-- Settles O31: both offsets decode to writes that are ignored. -/
theorem ignoredWritesChangeNothing : Obligations.IgnoredWritesChangeNothing := by
  refine fun k data s => ⟨decode_write 1 decodeWrite_status, rfl, ?_, rfl⟩
  rw [← slotOff_hSlot]
  exact decode_write _ (decodeWrite_hSlot k)

end Sys2Proof.Machine

/-! ## One step, one instruction (R184); no engine step elsewhere -/

namespace Sys2Proof.Machine

variable {s : State}

/-- Settles O6: the access is fetched as the instruction its transaction decodes to. -/
theorem stepRunsHostInstruction : Obligations.StepRunsHostInstruction := by
  intro s x rest i ht hh hm hlo hhi h64 hdec
  exact step_of_fetch_ok ht hh (Access.fetch_of_decode hm (Access.inWindow_iff.2 ⟨hlo, hhi⟩) h64 hdec)

/-- Settles O7: the decoded instruction is the engine's waiting step, and it is the engine's turn. -/
theorem stepRunsEngineInstruction : Obligations.StepRunsEngineInstruction := by
  intro s i hr hturn hdec
  have hf : s.engineFetch = some i := by simp [State.engineFetch, State.engineE, hr, hdec]
  rw [step_of_engineTurn ⟨by simp [hf], hturn⟩, exec_of_engineFetch hf, onNext_next]

theorem exec_round0to63_of_not_enabled {t : BitVec 7} (h : ¬ (s.engineAt t = true ∧ t.toNat ≤ 63)) :
    exec (.round0to63 t) s = .fault .engineNotEnabled :=
  if_neg (by simpa using h)

theorem exec_round64to79_of_not_enabled {t : BitVec 7}
    (h : ¬ (s.engineAt t = true ∧ 64 ≤ t.toNat ∧ t.toNat ≤ 79)) :
    exec (.round64to79 t) s = .fault .engineNotEnabled :=
  if_neg (by simpa using h)

theorem exec_finalize_of_not_enabled (h : ¬ s.engineAt 80 = true) :
    exec .finalize s = .fault .engineNotEnabled :=
  if_neg h

/-- Settles O35: each engine instruction asks for its counter and for its row's range. -/
theorem engineStepsStopWhereNotEnabled : Obligations.EngineStepsStopWhereNotEnabled := by
  refine fun s t => ⟨fun h => exec_round0to63_of_not_enabled ?_, fun h => exec_round64to79_of_not_enabled ?_,
    fun h => exec_finalize_of_not_enabled ?_⟩
  · simpa [s.engineAt_iff, and_assoc] using h
  · simpa [s.engineAt_iff, and_assoc] using h
  · rwa [s.engineAt_iff]

end Sys2Proof.Machine

/-! ## Nothing to do, a second host, the error record (R200, R210, R212) -/

namespace Sys2Proof.Machine

/-! ### An idle block -/

theorem State.finished_iff {s : State} :
    s.finished = true ↔ s.host = [] ∧ s.busy = false ∧ s.resetIn = false := by
  simp [State.finished, and_assoc]

/-- The engine has no step while BUSY = 0 (R184). -/
theorem State.engineFetch_of_idle {s : State} (idle : s.busy = false) : s.engineFetch = none := by
  simp [State.engineFetch_eq, idle]

/-- Settles O9: with no event and BUSY = 0 neither agent can move. -/
theorem idleBlockKeepsItsState : Obligations.IdleBlockKeepsItsState := by
  intro s h
  obtain ⟨noEvent, idle, noReset⟩ := State.finished_iff.1 h
  exact step_of_nothing_to_do noReset (State.engineFetch_of_idle idle) noEvent

/-! ### A second host -/

theorem Access.fetch_of_otherMaster {x : Access} (hm : x.master = .other) : x.fetch = .error .secondHost :=
  if_pos hm

/-- Settles O16: the access is refused where it is fetched. -/
theorem secondHostRefused : Obligations.SecondHostRefused := by
  intro s x rest ht hh hm
  exact step_of_fetch_error ht hh (Access.fetch_of_otherMaster hm)

/-! ### The error record -/

theorem State.setError_of_err {s : State} (herr : s.err = true) (code : BitVec 4) : s.setError code = s := by
  simp only [State.setError, herr, if_true]
  rw [← herr]

theorem State.setError_of_no_err {s : State} (herr : s.err = false) (code : BitVec 4) :
    s.setError code = { s with err := true, errcode := code } := by
  simp [State.setError, herr]

/-- INIT and COMPRESS are carried out with ERR = 0, so ERR = 1 after one of them says that it was dropped (R175). -/
theorem dropped_of_err {s s' accepted : State} (herr' : s'.err = true) (haccepted : accepted.err = false)
    (h : s' = if s.busy then s.setError cmdWhileBusy else accepted) :
    s' = s.setError cmdWhileBusy ∧ s.busy = true := by
  split_ifs at h with hbusy
  · exact ⟨h, hbusy⟩
  · simp [h, haccepted] at herr'

/-- The callers of set_error (R200). -/
theorem setError_of_exec {i : Instr} {s s' : State} (h : exec i s = .next s') (herr : s.err = false)
    (herr' : s'.err = true) :
    (s' = s.setError reservedCmd ∧ i.mnemonic = "RSVD_CMD") ∨
      (s' = s.setError cmdWhileBusy ∧ s.busy = true ∧ (i.mnemonic = "INIT" ∨ i.mnemonic = "COMPRESS")) := by
  cases i with
  | rsvdCmd3 | rsvdCmd4to7 | rsvdCmd8to15 => cases h; exact .inl ⟨rfl, rfl⟩
  | init ign =>
    rw [exec_init] at h
    obtain ⟨hs', hbusy⟩ := dropped_of_err herr' s.startMessage_err (Host.Outcome.next.inj h).symm
    exact .inr ⟨hs', hbusy, .inl rfl⟩
  | compress ign =>
    rw [exec_compress] at h
    obtain ⟨hs', hbusy⟩ := dropped_of_err herr' (s.startCompression_err.trans herr) (Host.Outcome.next.inj h).symm
    exact .inr ⟨hs', hbusy, .inr rfl⟩
  | round0to63 =>
    obtain ⟨-, -, rfl⟩ := exec_round0to63_eq_next.1 h
    simp [herr] at herr'
  | round64to79 =>
    obtain ⟨-, -, rfl⟩ := exec_round64to79_eq_next.1 h
    simp [herr] at herr'
  | finalize =>
    obtain ⟨-, rfl⟩ := exec_finalize_eq_next.1 h
    simp [herr] at herr'
  | nop | wrStatus | wrH | wrM | wrRsvd10to18 | wrRsvd20to38 | rdCtrl | rdStatus | rdH | rdM | rdRsvd10to18
  | rdRsvd20to38 =>
    cases h
    simp [herr] at herr'

/-- Settles O23: both cases of the definition, and its callers. -/
theorem setErrorKeepsTheFirstCode : Obligations.SetErrorKeepsTheFirstCode :=
  ⟨fun _ code => ⟨fun herr => State.setError_of_err herr code, fun herr => State.setError_of_no_err herr code⟩,
    fun _ _ _ => setError_of_exec⟩

end Sys2Proof.Machine

/-! ## Reset (R220) -/

namespace Sys2Proof.Machine

variable {s s' : State} {rest : List HostEvent}

/-- What a step under reset can do when it answers a next state: hold the block or take a reset event. -/
theorem step_cases_of_resetIn (hr : s.resetIn = true) (h : step s = .next s') :
    (s.host = [] ∧ s' = s.resetBlock) ∨
      ∃ rest, (s.host = .assertReset :: rest ∧ s' = s.enterReset rest) ∨
        (s.host = .releaseReset :: rest ∧ s' = s.leaveReset rest) := by
  obtain ⟨-, hcases⟩ | ⟨⟨hf, -⟩, -⟩ | ⟨⟨hr', -⟩, -⟩ | ⟨hr', -⟩ := step_cases h
  · exact hcases
  · have hr' := (s.engineFetch_isSome.1 hf).1
    simp [hr] at hr'
  · simp [hr] at hr'
  · simp [hr] at hr'

/-- Settles O12: the block is held, reset again or released at its reset values. -/
theorem assertedResetHoldsTheBlock : Obligations.AssertedResetHoldsTheBlock := by
  intro s s' hr h
  obtain ⟨hh, rfl⟩ | ⟨rest, ⟨-, rfl⟩ | ⟨hh, rfl⟩⟩ := step_cases_of_resetIn hr h
  · exact ⟨rfl, fun hlow => by simp [hr] at hlow⟩
  · exact ⟨rfl, nofun⟩
  · exact ⟨rfl, fun _ => hh⟩

/-- Settles O11: the host's step on the event is `enterReset`. -/
theorem assertingResetTakesEffectAtOnce : Obligations.AssertingResetTakesEffectAtOnce :=
  fun _ _ ht hh => step_of_hostTurn ht hh

theorem step_access_of_resetIn {x : Access} (hr : s.resetIn = true) (hh : s.host = .access x :: rest) :
    step s = .refused .inReset := by
  simp [step_of_resetIn hr, resetStep, hh]

theorem step_poll_of_resetIn (hr : s.resetIn = true) (hh : s.host = .poll :: rest) :
    step s = .refused .inReset := by
  simp [step_of_resetIn hr, resetStep, hh]

/-- Settles O13: the step under reset refuses both events, whatever the access asks for. -/
theorem transactionDuringResetRefused : Obligations.TransactionDuringResetRefused :=
  fun _ _ _ hr => ⟨step_access_of_resetIn hr, step_poll_of_resetIn hr⟩

end Sys2Proof.Machine
